-- ==== Sys2Proof/Word.lean ====
section
/-! DEFINITION. The word types of the CHIP-8 core (spec/00_scope.md R5, R11, R12): bytes, 16-bit words and the
widths of the instruction fields. Every value is unsigned; bit 0 is the least significant bit. -/

namespace Sys2Proof

/-- An 8-bit unsigned value: a register, a timer or a memory byte (R5, R20). -/
abbrev Byte := BitVec 8

/-- A 16-bit unsigned value: I, PC, a return address or an instruction word (R23, R24, R70). -/
abbrev Word := BitVec 16

/-- A 4-bit register selector, the X or Y field: every value names a register (R20, R74). -/
abbrev RegIx := BitVec 4

/-- The 4-bit N field of DXYN, a count of rows (R74, R75). -/
abbrev Nibble := BitVec 4

/-- The 12-bit NNN field (R74). -/
abbrev Addr := BitVec 12

/-- VF, register 15, also the flag output (R21). -/
abbrev vF : RegIx := 0xF

end Sys2Proof
end

