-- ==== Sys2Proof/Config.lean ====
section
/-! DEFINITION. What the implementation fixes and the spec leaves open (spec/00_scope.md R5 to R10), and the one
free value: the random byte of CXNN (R15). A configuration is the input of the Init transaction
(spec/60_exceptions.md R220) and stands in the state, so every claim over all states is a claim over all
configurations. -/

namespace Sys2Proof

/-- What a fetch at an odd PC does (R9): fetch as usual, or raise MisalignedFetch. -/
inductive MisalignedFetch where
  | execute
  | fault
  deriving DecidableEq, Repr

/-- How an unrecognised word is reported (R10): a no-op with a diagnostic, or an error. -/
inductive UnknownOpcodePolicy where
  | nopReport
  | fatal
  deriving DecidableEq, Repr

/-- The parameters of R6 to R10. -/
structure Config where
  /-- MEM_SIZE, the number of bytes of memory (R6). -/
  memSize : Nat
  /-- FONT_BASE, the address of the font table's first byte (R7). -/
  fontBase : Nat
  /-- FONT_DATA, 16 glyphs of 5 bytes, glyph 0 first (R8). -/
  fontData : Vector Byte 80
  /-- MISALIGNED_FETCH (R9). -/
  misalignedFetch : MisalignedFetch
  /-- UNKNOWN_OPCODE_POLICY (R10). -/
  unknownOpcodePolicy : UnknownOpcodePolicy
  deriving DecidableEq, Repr

/-- PROG_START: the program load address and the PC after Init (R5, R59). -/
def Config.progStart : Nat := 0x200

/-- STACK_DEPTH (R5, R25). -/
def Config.stackDepth : Nat := 16

/-- The hex font of R8's table. PRESUMED (general knowledge of the family, K3; log entry 4). -/
def Config.hexFont : Vector Byte 80 := #v[
  0xF0, 0x90, 0x90, 0x90, 0xF0,   0x20, 0x60, 0x20, 0x20, 0x70,
  0xF0, 0x10, 0xF0, 0x80, 0xF0,   0xF0, 0x10, 0xF0, 0x10, 0xF0,
  0x90, 0x90, 0xF0, 0x10, 0x10,   0xF0, 0x80, 0xF0, 0x10, 0xF0,
  0xF0, 0x80, 0xF0, 0x90, 0xF0,   0xF0, 0x10, 0x20, 0x40, 0x40,
  0xF0, 0x90, 0xF0, 0x90, 0xF0,   0xF0, 0x90, 0xF0, 0x10, 0xF0,
  0xF0, 0x90, 0xF0, 0x90, 0x90,   0xE0, 0x90, 0xE0, 0x90, 0xE0,
  0xF0, 0x80, 0x80, 0x80, 0xF0,   0xE0, 0x90, 0x90, 0x90, 0xE0,
  0xF0, 0x80, 0xF0, 0x80, 0xF0,   0xF0, 0x80, 0xF0, 0x80, 0x80]

/-- The configuration `State.reset` is initialised with: the values of the spec's test vectors
(spec/95_test_vectors.md section 0). MEM_SIZE, FONT_BASE and FONT_DATA are PRESUMED (K1, K2, K3; log entries 2, 3,
4); the two policies are the spec's defaults (R9, R10; log entries 5, 6). -/
def Config.default : Config where
  memSize := 4096
  fontBase := 0x050
  fontData := Config.hexFont
  misalignedFetch := .execute
  unknownOpcodePolicy := .nopReport

/-- The free value of R15: the byte that the k-th `RandomByte()` draws. It has no body, so no proof sees what it
is: any byte 0..255 (D18; log entry 8). -/
opaque Config.randomByte : Nat → Byte

end Sys2Proof
end

