-- ==== Sys2Proof/Syntax.lean ====
section
/-! DEFINITION. The instructions: one constructor per row of spec/opcode_table.json, named `op` followed by the
row's pattern (spec/30_encoding.md R76, R84). An operand has the width of its field, so a field value that the
encoding does not admit cannot be written. -/

namespace Sys2Proof

/-- The 34 instructions. `x`, `y`: register fields; `n`: row count; `nn`: byte immediate; `nnn`: address (R74, R75). -/
inductive Instr where
  /-- Clear screen (R161). -/
  | op00E0
  /-- Return from subroutine (R102). -/
  | op00EE
  /-- Jump (R103). -/
  | op1NNN (nnn : Addr)
  /-- Call subroutine (R104). -/
  | op2NNN (nnn : Addr)
  /-- Skip if VX = NN (R105). -/
  | op3XNN (x : RegIx) (nn : Byte)
  /-- Skip if VX != NN (R106). -/
  | op4XNN (x : RegIx) (nn : Byte)
  /-- Skip if VX = VY (R107). -/
  | op5XY0 (x y : RegIx)
  /-- Load byte (R120). -/
  | op6XNN (x : RegIx) (nn : Byte)
  /-- Add byte, no flag (R121). -/
  | op7XNN (x : RegIx) (nn : Byte)
  /-- Copy register (R122). -/
  | op8XY0 (x y : RegIx)
  /-- Bitwise OR (R123). -/
  | op8XY1 (x y : RegIx)
  /-- Bitwise AND (R124). -/
  | op8XY2 (x y : RegIx)
  /-- Bitwise XOR (R125). -/
  | op8XY3 (x y : RegIx)
  /-- Add with carry flag (R126). -/
  | op8XY4 (x y : RegIx)
  /-- Subtract VY from VX (R127). -/
  | op8XY5 (x y : RegIx)
  /-- Shift VX right; Y is encoded but not read (R128). -/
  | op8XY6 (x y : RegIx)
  /-- Subtract VX from VY into VX (R129). -/
  | op8XY7 (x y : RegIx)
  /-- Shift VX left; Y is encoded but not read (R130). -/
  | op8XYE (x y : RegIx)
  /-- Skip if VX != VY (R108). -/
  | op9XY0 (x y : RegIx)
  /-- Load index register (R140). -/
  | opANNN (nnn : Addr)
  /-- Jump to NNN + V0 (R109). -/
  | opBNNN (nnn : Addr)
  /-- Random byte masked by NN (R131). -/
  | opCXNN (x : RegIx) (nn : Byte)
  /-- Draw an N-row sprite at (VX, VY) (R162). -/
  | opDXYN (x y : RegIx) (n : Nibble)
  /-- Skip if key VX is held (R180). -/
  | opEX9E (x : RegIx)
  /-- Skip if key VX is not held (R181). -/
  | opEXA1 (x : RegIx)
  /-- Read delay timer (R183). -/
  | opFX07 (x : RegIx)
  /-- Wait for a key (R182). -/
  | opFX0A (x : RegIx)
  /-- Set delay timer (R184). -/
  | opFX15 (x : RegIx)
  /-- Set sound timer (R185). -/
  | opFX18 (x : RegIx)
  /-- Add register to index (R141). -/
  | opFX1E (x : RegIx)
  /-- Point I at a font glyph (R142). -/
  | opFX29 (x : RegIx)
  /-- Store the decimal digits of VX (R143). -/
  | opFX33 (x : RegIx)
  /-- Store V0 to VX (R144). -/
  | opFX55 (x : RegIx)
  /-- Load V0 to VX (R145). -/
  | opFX65 (x : RegIx)
  deriving DecidableEq, Repr

/-- The name the spec uses for the instruction, its row's "mnemonic" in spec/opcode_table.json (R84). -/
def Instr.pattern : Instr → String
  | .op00E0 => "00E0"
  | .op00EE => "00EE"
  | .op1NNN _ => "1NNN"
  | .op2NNN _ => "2NNN"
  | .op3XNN _ _ => "3XNN"
  | .op4XNN _ _ => "4XNN"
  | .op5XY0 _ _ => "5XY0"
  | .op6XNN _ _ => "6XNN"
  | .op7XNN _ _ => "7XNN"
  | .op8XY0 _ _ => "8XY0"
  | .op8XY1 _ _ => "8XY1"
  | .op8XY2 _ _ => "8XY2"
  | .op8XY3 _ _ => "8XY3"
  | .op8XY4 _ _ => "8XY4"
  | .op8XY5 _ _ => "8XY5"
  | .op8XY6 _ _ => "8XY6"
  | .op8XY7 _ _ => "8XY7"
  | .op8XYE _ _ => "8XYE"
  | .op9XY0 _ _ => "9XY0"
  | .opANNN _ => "ANNN"
  | .opBNNN _ => "BNNN"
  | .opCXNN _ _ => "CXNN"
  | .opDXYN _ _ _ => "DXYN"
  | .opEX9E _ => "EX9E"
  | .opEXA1 _ => "EXA1"
  | .opFX07 _ => "FX07"
  | .opFX0A _ => "FX0A"
  | .opFX15 _ => "FX15"
  | .opFX18 _ => "FX18"
  | .opFX1E _ => "FX1E"
  | .opFX29 _ => "FX29"
  | .opFX33 _ => "FX33"
  | .opFX55 _ => "FX55"
  | .opFX65 _ => "FX65"

end Sys2Proof
end

