-- ==== Sys2Proof/WellFormed.lean ====
section
/-! DEFINITION. What is well formed. A configuration is, when it keeps the constraints of spec/00_scope.md R6 and
R7. An instruction word is, when it matches a row of spec/opcode_table.json (spec/30_encoding.md R76, R80, R81). An
`Instr` needs no check of its own: each operand has exactly the width of its field (R74), so every term is an
instruction, and "every well-formed instruction" is every term. -/

namespace Sys2Proof

/-- The constraints on the parameters: `0x200 <= MEM_SIZE <= 0x10000` (R6), `FONT_BASE + 80 <= 0x200` (R7).
FONT_DATA has 80 bytes by its type (R8). -/
def Config.wellFormed (c : Config) : Bool :=
  decide (0x200 ≤ c.memSize) && decide (c.memSize ≤ 0x10000) && decide (c.fontBase + 80 ≤ 0x200)

/-- A row of the opcode table: a word is the row's instruction when its bits under `mask` are `value`. -/
structure OpcodeRow where
  pattern : String
  mask : Word
  value : Word
  deriving DecidableEq, Repr

/-- spec/opcode_table.json's columns mnemonic, mask and match, row by row. -/
def opcodeTable : List OpcodeRow :=
  [
    ⟨"00E0", 0xFFFF, 0x00E0⟩,
    ⟨"00EE", 0xFFFF, 0x00EE⟩,
    ⟨"1NNN", 0xF000, 0x1000⟩,
    ⟨"2NNN", 0xF000, 0x2000⟩,
    ⟨"3XNN", 0xF000, 0x3000⟩,
    ⟨"4XNN", 0xF000, 0x4000⟩,
    ⟨"5XY0", 0xF00F, 0x5000⟩,
    ⟨"6XNN", 0xF000, 0x6000⟩,
    ⟨"7XNN", 0xF000, 0x7000⟩,
    ⟨"8XY0", 0xF00F, 0x8000⟩,
    ⟨"8XY1", 0xF00F, 0x8001⟩,
    ⟨"8XY2", 0xF00F, 0x8002⟩]
  ++ [
    ⟨"8XY3", 0xF00F, 0x8003⟩,
    ⟨"8XY4", 0xF00F, 0x8004⟩,
    ⟨"8XY5", 0xF00F, 0x8005⟩,
    ⟨"8XY6", 0xF00F, 0x8006⟩,
    ⟨"8XY7", 0xF00F, 0x8007⟩,
    ⟨"8XYE", 0xF00F, 0x800E⟩,
    ⟨"9XY0", 0xF00F, 0x9000⟩,
    ⟨"ANNN", 0xF000, 0xA000⟩,
    ⟨"BNNN", 0xF000, 0xB000⟩,
    ⟨"CXNN", 0xF000, 0xC000⟩,
    ⟨"DXYN", 0xF000, 0xD000⟩,
    ⟨"EX9E", 0xF0FF, 0xE09E⟩]
  ++ [
    ⟨"EXA1", 0xF0FF, 0xE0A1⟩,
    ⟨"FX07", 0xF0FF, 0xF007⟩,
    ⟨"FX0A", 0xF0FF, 0xF00A⟩,
    ⟨"FX15", 0xF0FF, 0xF015⟩,
    ⟨"FX18", 0xF0FF, 0xF018⟩,
    ⟨"FX1E", 0xF0FF, 0xF01E⟩,
    ⟨"FX29", 0xF0FF, 0xF029⟩,
    ⟨"FX33", 0xF0FF, 0xF033⟩,
    ⟨"FX55", 0xF0FF, 0xF055⟩,
    ⟨"FX65", 0xF0FF, 0xF065⟩]

/-- `w` carries the row's fixed bits, all of them (R81). -/
def OpcodeRow.covers (r : OpcodeRow) (w : Word) : Bool := w &&& r.mask == r.value

/-- `w` is one of the 34 instructions: some row covers it (R80, R82). -/
def recognised (w : Word) : Bool := opcodeTable.any (·.covers w)

end Sys2Proof
end

