-- ==== Sys2Proof/Decode.lean ====
section
/-! DEFINITION. Decoding (spec/30_encoding.md R70, R74 to R82) and, after it, encoding. Every instruction is one
16-bit word, its most significant byte first (R55, R70). -/

namespace Sys2Proof

/-! ### Fields of a word (R74) -/

/-- w[15:12], the instruction class. -/
def fieldClass (w : Word) : BitVec 4 := w.extractLsb' 12 4

/-- X = w[11:8]. -/
def fieldX (w : Word) : RegIx := w.extractLsb' 8 4

/-- Y = w[7:4]. -/
def fieldY (w : Word) : RegIx := w.extractLsb' 4 4

/-- N = w[3:0]. -/
def fieldN (w : Word) : Nibble := w.extractLsb' 0 4

/-- NN = w[7:0]. -/
def fieldNN (w : Word) : Byte := w.extractLsb' 0 8

/-- NNN = w[11:0]. -/
def fieldNNN (w : Word) : Addr := w.extractLsb' 0 12

/-! ### Sub-dispatch of the classes with several forms (R76) -/

/-- Class 0x0 decodes on the whole word (R77). -/
def decodeClass0 (w : Word) : Option Instr :=
  if w = 0x00E0 then some .op00E0
  else if w = 0x00EE then some .op00EE
  else none

/-- Class 0x8 decodes on N (R78). -/
def decodeClass8 (x y : RegIx) (n : Nibble) : Option Instr :=
  if n = 0x0 then some (.op8XY0 x y)
  else if n = 0x1 then some (.op8XY1 x y)
  else if n = 0x2 then some (.op8XY2 x y)
  else if n = 0x3 then some (.op8XY3 x y)
  else if n = 0x4 then some (.op8XY4 x y)
  else if n = 0x5 then some (.op8XY5 x y)
  else if n = 0x6 then some (.op8XY6 x y)
  else if n = 0x7 then some (.op8XY7 x y)
  else if n = 0xE then some (.op8XYE x y)
  else none

/-- Class 0xE decodes on NN (R79). -/
def decodeClassE (x : RegIx) (nn : Byte) : Option Instr :=
  if nn = 0x9E then some (.opEX9E x)
  else if nn = 0xA1 then some (.opEXA1 x)
  else none

/-- Class 0xF decodes on NN (R79). -/
def decodeClassF (x : RegIx) (nn : Byte) : Option Instr :=
  if nn = 0x07 then some (.opFX07 x)
  else if nn = 0x0A then some (.opFX0A x)
  else if nn = 0x15 then some (.opFX15 x)
  else if nn = 0x18 then some (.opFX18 x)
  else if nn = 0x1E then some (.opFX1E x)
  else if nn = 0x29 then some (.opFX29 x)
  else if nn = 0x33 then some (.opFX33 x)
  else if nn = 0x55 then some (.opFX55 x)
  else if nn = 0x65 then some (.opFX65 x)
  else none

/-- The opcode map of R76. `none` is an unrecognised word (R80): matching is exact on every fixed nibble (R81). -/
def decodeWord (w : Word) : Option Instr :=
  let c := fieldClass w
  if c = 0x0 then decodeClass0 w
  else if c = 0x1 then some (.op1NNN (fieldNNN w))
  else if c = 0x2 then some (.op2NNN (fieldNNN w))
  else if c = 0x3 then some (.op3XNN (fieldX w) (fieldNN w))
  else if c = 0x4 then some (.op4XNN (fieldX w) (fieldNN w))
  else if c = 0x5 then (if fieldN w = 0 then some (.op5XY0 (fieldX w) (fieldY w)) else none)
  else if c = 0x6 then some (.op6XNN (fieldX w) (fieldNN w))
  else if c = 0x7 then some (.op7XNN (fieldX w) (fieldNN w))
  else if c = 0x8 then decodeClass8 (fieldX w) (fieldY w) (fieldN w)
  else if c = 0x9 then (if fieldN w = 0 then some (.op9XY0 (fieldX w) (fieldY w)) else none)
  else if c = 0xA then some (.opANNN (fieldNNN w))
  else if c = 0xB then some (.opBNNN (fieldNNN w))
  else if c = 0xC then some (.opCXNN (fieldX w) (fieldNN w))
  else if c = 0xD then some (.opDXYN (fieldX w) (fieldY w) (fieldN w))
  else if c = 0xE then decodeClassE (fieldX w) (fieldNN w)
  else decodeClassF (fieldX w) (fieldNN w)

/-! ### Bytes -/

/-- Why bytes are no instruction. -/
inductive DecodeError where
  /-- Fewer than 2 bytes: a decoder always consumes exactly 2 (R70). -/
  | truncated
  /-- The word matches none of the 34 patterns (R80). -/
  | unrecognised (w : Word)
  deriving DecidableEq, Repr

/-- The word of two consecutive bytes, the first the most significant (R55). -/
def wordOfBytes (hi lo : Byte) : Word := hi ++ lo

/-- The high byte of a word, stored at the lower address (R55, R70). -/
def highByte (w : Word) : Byte := w.extractLsb' 8 8

/-- The low byte of a word. -/
def lowByte (w : Word) : Byte := w.extractLsb' 0 8

/-- Reads one instruction off a byte string: the instruction and the rest, or why not (R70). -/
def decode : List Byte → Except DecodeError (Instr × List Byte)
  | hi :: lo :: rest =>
    match decodeWord (wordOfBytes hi lo) with
    | some i => .ok (i, rest)
    | none => .error (.unrecognised (wordOfBytes hi lo))
  | _ => .error .truncated

/-- The instruction the decoder reads from a row's bits, numbered as spec/opcode_table.json numbers them: the table
gives every row 16 bits, bit 0 the least significant bit of the one word. Bits at and above `nbits` are 0. -/
def decodeTableWord (nbits w : Nat) : Option Instr :=
  let word : Word := BitVec.ofNat 16 (w % 2 ^ nbits)
  match decode [highByte word, lowByte word] with
  | .ok (i, _) => some i
  | .error _ => none

/-! ### Encoding -/

/-- Class, address: `cNNN` (R74). -/
def wordNNN (c : BitVec 4) (nnn : Addr) : Word := c ++ nnn

/-- Class, register, byte: `cXNN` (R74). -/
def wordXNN (c : BitVec 4) (x : RegIx) (nn : Byte) : Word := c ++ x ++ nn

/-- Class, two registers, nibble: `cXYn` (R74). -/
def wordXYN (c : BitVec 4) (x y : RegIx) (n : Nibble) : Word := c ++ x ++ y ++ n

/-- The word of an instruction, from the encoding column of spec/opcode_table.json. -/
def encode : Instr → Word
  | .op00E0 => 0x00E0
  | .op00EE => 0x00EE
  | .op1NNN nnn => wordNNN 0x1 nnn
  | .op2NNN nnn => wordNNN 0x2 nnn
  | .op3XNN x nn => wordXNN 0x3 x nn
  | .op4XNN x nn => wordXNN 0x4 x nn
  | .op5XY0 x y => wordXYN 0x5 x y 0x0
  | .op6XNN x nn => wordXNN 0x6 x nn
  | .op7XNN x nn => wordXNN 0x7 x nn
  | .op8XY0 x y => wordXYN 0x8 x y 0x0
  | .op8XY1 x y => wordXYN 0x8 x y 0x1
  | .op8XY2 x y => wordXYN 0x8 x y 0x2
  | .op8XY3 x y => wordXYN 0x8 x y 0x3
  | .op8XY4 x y => wordXYN 0x8 x y 0x4
  | .op8XY5 x y => wordXYN 0x8 x y 0x5
  | .op8XY6 x y => wordXYN 0x8 x y 0x6
  | .op8XY7 x y => wordXYN 0x8 x y 0x7
  | .op8XYE x y => wordXYN 0x8 x y 0xE
  | .op9XY0 x y => wordXYN 0x9 x y 0x0
  | .opANNN nnn => wordNNN 0xA nnn
  | .opBNNN nnn => wordNNN 0xB nnn
  | .opCXNN x nn => wordXNN 0xC x nn
  | .opDXYN x y n => wordXYN 0xD x y n
  | .opEX9E x => wordXNN 0xE x 0x9E
  | .opEXA1 x => wordXNN 0xE x 0xA1
  | .opFX07 x => wordXNN 0xF x 0x07
  | .opFX0A x => wordXNN 0xF x 0x0A
  | .opFX15 x => wordXNN 0xF x 0x15
  | .opFX18 x => wordXNN 0xF x 0x18
  | .opFX1E x => wordXNN 0xF x 0x1E
  | .opFX29 x => wordXNN 0xF x 0x29
  | .opFX33 x => wordXNN 0xF x 0x33
  | .opFX55 x => wordXNN 0xF x 0x55
  | .opFX65 x => wordXNN 0xF x 0x65

/-- The bytes of an instruction in memory order (R55). -/
def encodeBytes (i : Instr) : List Byte := [highByte (encode i), lowByte (encode i)]

end Sys2Proof
end

