-- ==== Sys2Proof/Machine/State.lean ====
section
/-! DEFINITION. The architectural state of the core (spec/10_state.md R20 to R34), why a step can stop
(spec/60_exceptions.md R200 to R207), and the state after Init (spec/70_reset_and_hazards.md R240). -/

namespace Sys2Proof.Machine

/-- The 64 x 32 grid of pixels, column first: `fb[x][y]`, true is lit (R28). -/
abbrev FrameBuffer := Vector (Vector Bool 32) 64

/-- The state, field by field as in 10_state.md. `cfg` is the configuration Init was given (R220; log entry 1).
The last three fields are the model's own: `draws` numbers the random bytes (log entry 8), and `redraw` and
`unknownWord` hold the outputs of the latest step, for which the host's outcome has no place (log entry 10). -/
structure State where
  /-- V0 to VF (R20, R21). -/
  v : Vector Byte 16
  /-- The index register I (R23). -/
  i : Word
  /-- The program counter PC (R24). -/
  pc : Word
  /-- The call stack, its top entry last; at most 16 entries (R25). -/
  stack : List Word
  /-- The delay timer DT (R26). -/
  dt : Byte
  /-- The sound timer ST (R27). -/
  st : Byte
  /-- The framebuffer FB (R28). -/
  fb : FrameBuffer
  /-- The key vector KEY (R29). -/
  key : Vector Bool 16
  /-- The memory bank MEM (R30): the bytes that differ from their value after Init, addresses rising
  (`Memory.wf`; log entry 9). -/
  mem : List Host.Cell
  /-- The parameters of 00_scope.md R6 to R10; only Init sets them. -/
  cfg : Config
  /-- How many random bytes CXNN has drawn: the argument of the free value (R15). -/
  draws : Nat
  /-- The redraw hint of the latest step (R31). -/
  redraw : Bool
  /-- The word of the latest step's outcome `unknown(w)`, if that was its outcome (R14, R206). -/
  unknownWord : Option Word
  deriving DecidableEq, Repr

/-- The error kinds of R200, with the information each records; a step's error also records `ia`, the address of
the instruction. All are safe: the run ends where a host could go on (R210, D24; log entry 11). -/
inductive Fault where
  /-- Raised by LoadProgram when the program is longer than MEM_SIZE - 0x200 (R201). Safe. -/
  | loadOverflow (length : Nat)
  /-- Raised by a fetch, DXYN, FX1E, FX33, FX55 and FX65; `addr` is the lowest offending address (R202). Safe. -/
  | memoryOutOfRange (ia : Word) (addr : Nat)
  /-- Raised by 2NNN on a full stack (R204). Safe. -/
  | stackOverflow (ia : Word)
  /-- Raised by 00EE on an empty stack (R205). Safe. -/
  | stackUnderflow (ia : Word)
  /-- Raised by an unrecognised word under UNKNOWN_OPCODE_POLICY = fatal (R206). Safe. -/
  | unknownOpcode (ia : Word) (w : Word)
  /-- Raised by a fetch at an odd PC under MISALIGNED_FETCH = fault (R207). Safe. -/
  | misalignedFetch (ia : Word)
  deriving DecidableEq, Repr

/-- Why an instruction has no meaning. No arm of `exec` answers with it: every instruction is modelled. -/
inductive Refusal where
  /-- Raised by an arm of `exec` whose instruction has no meaning yet; there is none. Safe. -/
  | notModelled (mnemonic : String)
  deriving DecidableEq, Repr

/-- The state Init leaves under configuration `c` (R34, R240). Memory lists nothing: every byte reads as after
Init. `draws` goes on counting, so that a second Init repeats no random byte (log entry 8). -/
def State.init (c : Config) (draws : Nat) : State where
  v := Vector.replicate 16 0x00
  i := 0x0000
  pc := BitVec.ofNat 16 Config.progStart
  stack := []
  dt := 0
  st := 0
  fb := Vector.replicate 64 (Vector.replicate 32 false)
  key := Vector.replicate 16 false
  mem := []
  cfg := c
  draws := draws
  redraw := false
  unknownWord := none

/-- The machine right after reset: Init with the default configuration (R34, R240). -/
def State.reset : State := State.init Config.default 0

end Sys2Proof.Machine
end

