-- ==== Sys2Proof/Machine/Ops.lean ====
section
/-! DEFINITION. The named operations the rules are written in (spec/00_scope.md R13): registers, PC, memory
(spec/20_memory.md), the call stack (R25), the fetch and the advance of a step (spec/30_encoding.md R71 to R73), and
raising an error (spec/60_exceptions.md R203). -/

namespace Sys2Proof.Machine

/-- What an instruction or a step answers. -/
abbrev Result := Host.Outcome State Fault Refusal

/-! ### Registers -/

/-- `V[x]` (R20): every selector names a register, and none is hardwired. -/
def State.getV (s : State) (x : RegIx) : Byte := s.v[x.toNat]'x.isLt

/-- `V[x] <- b` (R20). -/
def State.setV (s : State) (x : RegIx) (b : Byte) : State := { s with v := s.v.set x.toNat b x.isLt }

/-- `I <- w` (R23). -/
def State.setI (s : State) (w : Word) : State := { s with i := w }

/-- `pc <- w` (R24): no write of PC checks alignment or range. -/
def State.setPc (s : State) (w : Word) : State := { s with pc := w }

/-- `DT <- b` (R26). -/
def State.setDt (s : State) (b : Byte) : State := { s with dt := b }

/-- `ST <- b` (R27). -/
def State.setSt (s : State) (b : Byte) : State := { s with st := b }

/-- `KEY[k]` for the key that a nibble names (R29). -/
def State.keyHeld (s : State) (k : BitVec 4) : Bool := s.key[k.toNat]'k.isLt

/-- `Skip()`: `pc <- (PC + 2) mod 65536` (R100). -/
def State.skip (s : State) : State := s.setPc (s.pc + 2)

/-- Skip when the condition holds, else go on (R100). -/
def State.skipIf (s : State) (p : Bool) : State := if p then s.skip else s

/-! ### Errors

The core has no trap, no handler and no return from one (R209, R210): taking an error ends the step with `raise`,
and the state it leaves is `errorState`. -/

/-- `raise E(info)`: the step ends in the error (R13, R203). -/
def raise (f : Fault) : Result := .fault f

/-- `ia`, the address of the executing instruction: PC already holds `ia + 2` (R73). -/
def State.instrAddr (s : State) : Word := s.pc - 2

/-- The numeric code of an error kind (R200, D14). -/
def Fault.code : Fault → Nat
  | .loadOverflow _ => 1
  | .memoryOutOfRange _ _ => 2
  | .stackOverflow _ => 3
  | .stackUnderflow _ => 4
  | .unknownOpcode _ _ => 5
  | .misalignedFetch _ => 6

/-- The `ia` that an error of a step records (R200); a load error has none. -/
def Fault.ia : Fault → Option Word
  | .loadOverflow _ => none
  | .memoryOutOfRange ia _ => some ia
  | .stackOverflow ia => some ia
  | .stackUnderflow ia => some ia
  | .unknownOpcode ia _ => some ia
  | .misalignedFetch ia => some ia

/-! ### Memory (R50 to R54) -/

/-- What an address reads as after Init, and so what an address that memory does not list reads as: the font table,
and 0x00 everywhere else (R34). -/
def Memory.initial (c : Config) (a : Nat) : Byte :=
  if h : c.fontBase ≤ a ∧ a < c.fontBase + 80 then c.fontData[a - c.fontBase]'(by omega) else 0x00

/-- The listed byte at an address. -/
def Memory.find : List Host.Cell → Nat → Option Byte
  | [], _ => none
  | (b, w) :: m, a => if a = b then some w else Memory.find m a

/-- The list with the byte at `a` listed as `v`, addresses kept rising. -/
def Memory.put : List Host.Cell → Nat → Byte → List Host.Cell
  | [], a, v => [(a, v)]
  | (b, w) :: m, a, v =>
    if a < b then (a, v) :: (b, w) :: m
    else if a = b then (a, v) :: m
    else (b, w) :: Memory.put m a v

/-- The list with no entry for `a`. -/
def Memory.drop (m : List Host.Cell) (a : Nat) : List Host.Cell := m.filter (fun p => p.1 != a)

/-- The canonical form: addresses strictly rising, no entry equal to what its address reads as unlisted. -/
abbrev Memory.wf (c : Config) (m : List Host.Cell) : Prop :=
  m.Pairwise (fun p q => p.1 < q.1) ∧ ∀ p ∈ m, p.2 ≠ Memory.initial c p.1

/-- `MEM[a]` (R52). A read has no side effect. -/
def Memory.read (c : Config) (m : List Host.Cell) (a : Nat) : Byte :=
  (Memory.find m a).getD (Memory.initial c a)

/-- `MEM[a] <- v` (R53), in canonical form. -/
def Memory.write (c : Config) (m : List Host.Cell) (a : Nat) (v : Byte) : List Host.Cell :=
  if v = Memory.initial c a then Memory.drop m a else Memory.put m a v

/-- `MemRead(a, 1)` (R52). -/
def State.memRead (s : State) (a : Nat) : Byte := Memory.read s.cfg s.mem a

/-- `MemWrite(a, 1, v)` (R53). No address is protected (R60). -/
def State.memWrite (s : State) (a : Nat) (v : Byte) : State :=
  { s with mem := Memory.write s.cfg s.mem a v }

/-- The bytes at `a`, `a + 1`, ... one by one in increasing address order (R57). -/
def State.memWrites (s : State) (a : Nat) : List Byte → State
  | [] => s
  | b :: bs => (s.memWrite a b).memWrites (a + 1) bs

/-- The test of `CheckRange(a, n)`; a count of 0 makes no access and no check (R54). -/
def State.inRange (s : State) (a n : Nat) : Bool := n == 0 || decide (a + n - 1 < s.cfg.memSize)

/-- `max(a, MEM_SIZE)`, the lowest address out of range (R54). -/
def State.firstOutside (s : State) (a : Nat) : Nat := max a s.cfg.memSize

/-- `CheckRange(a, n)` before the accesses that lead to `t`: MemoryOutOfRange, or `t` (R54). -/
def State.checkRange (s : State) (a n : Nat) (t : State) : Result :=
  if s.inRange a n then .next t else raise (.memoryOutOfRange s.instrAddr (s.firstOutside a))

/-! ### Call stack (R25) -/

/-- `Push(v)` and then the state `k` makes of it; StackOverflow on a full stack, nothing pushed (R25, R204). -/
def State.push (s : State) (w : Word) (k : State → State) : Result :=
  if s.stack.length < Config.stackDepth then .next (k { s with stack := s.stack ++ [w] })
  else raise (.stackOverflow s.instrAddr)

/-- `Pop()` and then the state `k` makes of the popped value; StackUnderflow on an empty stack (R25, R205). -/
def State.pop (s : State) (k : Word → State → State) : Result :=
  match s.stack.getLast? with
  | some w => .next (k w { s with stack := s.stack.dropLast })
  | none => raise (.stackUnderflow s.instrAddr)

/-! ### Fetch and advance (R71 to R73) -/

/-- `Fetch(ia)` at PC, in the order of R72 and R208: MisalignedFetch, MemoryOutOfRange, the big-endian word. -/
def State.fetch (s : State) : Except Fault Word :=
  if s.cfg.misalignedFetch = .fault ∧ s.pc.getLsbD 0 = true then .error (.misalignedFetch s.pc)
  else if s.pc.toNat + 1 < s.cfg.memSize then
    .ok (wordOfBytes (s.memRead s.pc.toNat) (s.memRead (s.pc.toNat + 1)))
  else .error (.memoryOutOfRange s.pc (s.firstOutside s.pc.toNat))

/-- The instruction word `w` stored where the next fetch reads it, most significant byte first (R55, R72). -/
def State.placeWord (s : State) (w : Word) : State := s.memWrites s.pc.toNat [highByte w, lowByte w]

/-- The outputs at the start of a step: `redraw <- false`, and no diagnostic yet (R31, R71). -/
def State.clearOutputs (s : State) : State := { s with redraw := false, unknownWord := none }

/-- The state in which a fetched instruction executes: outputs cleared, `PC <- (PC + 2) mod 65536` (R71, R73). -/
def State.advance (s : State) : State := s.clearOutputs.setPc (s.pc + 2)

/-- An unrecognised word, after the advance: a no-op that reports the word, or an error (R80, R206). -/
def State.unrecognisedWord (s : State) (w : Word) : Result :=
  match s.cfg.unknownOpcodePolicy with
  | .nopReport => .next { s with unknownWord := some w }
  | .fatal => raise (.unknownOpcode s.instrAddr w)

/-- The state after a step from `s` that raised an error (R203): unchanged when the fetch raised it, else unchanged
but for the advance of PC. The step's outputs are cleared, since it answers `redraw = false`. -/
def State.errorState (s : State) : State :=
  match s.fetch with
  | .error _ => s.clearOutputs
  | .ok _ => s.advance

end Sys2Proof.Machine
end

