-- ==== Sys2Proof/Machine/Flags.lean ====
section
/-! DEFINITION. Arithmetic and the flags it leaves in VF (spec/41_register_alu.md R126 to R130, R132): exact on the
naturals, then narrowed to 8 bits. VF is the only flag and is written last (spec/30_encoding.md R83, C2, C4). -/

namespace Sys2Proof.Machine

/-- A Boolean as a register value: 1 or 0 (R12). -/
def flagByte (f : Bool) : Byte := if f then 0x01 else 0x00

/-- `(a + b) mod 256` (R121, R126). -/
def addBytes (a b : Byte) : Byte := BitVec.ofNat 8 ((a.toNat + b.toNat) % 256)

/-- The carry: the unwrapped sum exceeds 255 (R126). -/
def carryOut (a b : Byte) : Bool := decide (255 < a.toNat + b.toNat)

/-- `(a + 256 - b) mod 256` (R127, R129). -/
def subBytes (a b : Byte) : Byte := BitVec.ofNat 8 ((a.toNat + 256 - b.toNat) % 256)

/-- No borrow: `a >= b` (R127, R129). -/
def noBorrow (a b : Byte) : Bool := decide (b.toNat ≤ a.toNat)

/-- `a >> 1` (R128). -/
def shiftRight (a : Byte) : Byte := a >>> 1

/-- The bit shifted out to the right, `a[0]` (R128). -/
def lowBit (a : Byte) : Bool := a.getLsbD 0

/-- `(a << 1) mod 256` (R130). -/
def shiftLeft (a : Byte) : Byte := a <<< 1

/-- The bit shifted out to the left, `a[7]` (R130). -/
def highBit (a : Byte) : Bool := a.getLsbD 7

/-- `V[15] <- f` (R21). -/
def State.setFlag (s : State) (f : Bool) : State := s.setV vF (flagByte f)

/-- The result into VX and then the flag into VF, so that with X = F the flag stays (R83). -/
def State.setResult (s : State) (x : RegIx) (r : Byte) (f : Bool) : State := (s.setV x r).setFlag f

end Sys2Proof.Machine
end

