-- ==== Sys2Proof/Machine/Alu.lean ====
section
/-! DEFINITION. Register loads, arithmetic, logic, shifts and the random byte (spec/41_register_alu.md R120 to R132).
None of them raises an error. -/

namespace Sys2Proof.Machine

/-- 6XNN, load byte (R120). -/
def exec6XNN (x : RegIx) (nn : Byte) (s : State) : Result := .next (s.setV x nn)

/-- 7XNN, add byte; VF is not a flag here (R121). -/
def exec7XNN (x : RegIx) (nn : Byte) (s : State) : Result := .next (s.setV x (addBytes (s.getV x) nn))

/-- 8XY0, copy register (R122). -/
def exec8XY0 (x y : RegIx) (s : State) : Result := .next (s.setV x (s.getV y))

/-- 8XY1, OR; VF unchanged unless X = F (R123). -/
def exec8XY1 (x y : RegIx) (s : State) : Result := .next (s.setV x (s.getV x ||| s.getV y))

/-- 8XY2, AND; VF unchanged unless X = F (R124). -/
def exec8XY2 (x y : RegIx) (s : State) : Result := .next (s.setV x (s.getV x &&& s.getV y))

/-- 8XY3, XOR; VF unchanged unless X = F (R125). -/
def exec8XY3 (x y : RegIx) (s : State) : Result := .next (s.setV x (s.getV x ^^^ s.getV y))

/-- 8XY4, add; VF is the carry, written last (R126). -/
def exec8XY4 (x y : RegIx) (s : State) : Result :=
  .next (s.setResult x (addBytes (s.getV x) (s.getV y)) (carryOut (s.getV x) (s.getV y)))

/-- 8XY5, VX - VY; VF is no-borrow, written last (R127). -/
def exec8XY5 (x y : RegIx) (s : State) : Result :=
  .next (s.setResult x (subBytes (s.getV x) (s.getV y)) (noBorrow (s.getV x) (s.getV y)))

/-- 8XY6, shift VX right; VF is the old bit 0; the Y field is not read (R128, R78). -/
def exec8XY6 (x _y : RegIx) (s : State) : Result :=
  .next (s.setResult x (shiftRight (s.getV x)) (lowBit (s.getV x)))

/-- 8XY7, VY - VX into VX; VF is no-borrow, written last (R129). -/
def exec8XY7 (x y : RegIx) (s : State) : Result :=
  .next (s.setResult x (subBytes (s.getV y) (s.getV x)) (noBorrow (s.getV y) (s.getV x)))

/-- 8XYE, shift VX left; VF is the old bit 7; the Y field is not read (R130, R78). -/
def exec8XYE (x _y : RegIx) (s : State) : Result :=
  .next (s.setResult x (shiftLeft (s.getV x)) (highBit (s.getV x)))

/-- `RandomByte()`: the next free byte, and the state in which it is drawn (R15, R131). -/
def State.drawByte (s : State) : Byte × State :=
  (Config.randomByte s.draws, { s with draws := s.draws + 1 })

/-- CXNN, random byte masked by NN; one draw per execution, whatever NN is (R131). -/
def execCXNN (x : RegIx) (nn : Byte) (s : State) : Result :=
  .next (s.drawByte.2.setV x (s.drawByte.1 &&& nn))

end Sys2Proof.Machine
end

