-- ==== Sys2Proof/Machine/Operands.lean ====
section
/-! DEFINITION. The operand forms (spec/30_encoding.md R75, spec/42_index_memory.md R146): an address immediate, the
low nibble of a register, the address `I + k`, the registers V0 to VX, a glyph's address, a sprite's origin. -/

namespace Sys2Proof.Machine

/-- `zext_16(NNN)` (R75). -/
def addrWord (nnn : Addr) : Word := nnn.zeroExtend 16

/-- `V[x] AND 0x0F`, the key or digit that a register names (R142, R180). -/
def State.lowNibble (s : State) (x : RegIx) : BitVec 4 := (s.getV x).extractLsb' 0 4

/-- `I + k`, an unbounded natural: an address never wraps (R51, R146). -/
def State.indexed (s : State) (k : Nat) : Nat := s.i.toNat + k

/-- V0 to VX inclusive, in increasing order (R144, R145). -/
def regsUpTo (x : RegIx) : List RegIx := (List.range (x.toNat + 1)).map (BitVec.ofNat 4)

/-- `FONT_BASE + 5 * d`, the address of glyph `d` (R7, R142). -/
def State.glyphAddr (s : State) (d : BitVec 4) : Nat := s.cfg.fontBase + 5 * d.toNat

/-- `NNN + V0`, the target of BNNN; at most 0x10FE, so 16 bits hold it (R109). -/
def State.indexedTarget (s : State) (nnn : Addr) : Word :=
  BitVec.ofNat 16 (nnn.toNat + (s.getV 0).toNat)

/-- The column of a sprite's origin, `V[x] mod 64` (R162). -/
def State.originX (s : State) (x : RegIx) : Nat := (s.getV x).toNat % 64

/-- The row of a sprite's origin, `V[y] mod 32` (R162). -/
def State.originY (s : State) (y : RegIx) : Nat := (s.getV y).toNat % 32

end Sys2Proof.Machine
end

