-- ==== Sys2Proof/Machine/Control.lean ====
section
/-! DEFINITION. The control-flow instructions (spec/40_control_flow.md R100 to R109). PC already holds the address of
the following word; no instruction checks its target (R101). -/

namespace Sys2Proof.Machine

/-- 00EE, return: the popped address is the next PC, as it is; StackUnderflow on an empty stack (R102). -/
def exec00EE (s : State) : Result := s.pop fun w t => t.setPc w

/-- 1NNN, jump (R103). -/
def exec1NNN (nnn : Addr) (s : State) : Result := .next (s.setPc (addrWord nnn))

/-- 2NNN, call: the advanced PC is the return address; StackOverflow on a full stack (R104). -/
def exec2NNN (nnn : Addr) (s : State) : Result := s.push s.pc fun t => t.setPc (addrWord nnn)

/-- 3XNN, skip if VX = NN (R105). -/
def exec3XNN (x : RegIx) (nn : Byte) (s : State) : Result := .next (s.skipIf (s.getV x == nn))

/-- 4XNN, skip if VX != NN (R106). -/
def exec4XNN (x : RegIx) (nn : Byte) (s : State) : Result := .next (s.skipIf (s.getV x != nn))

/-- 5XY0, skip if VX = VY (R107). -/
def exec5XY0 (x y : RegIx) (s : State) : Result := .next (s.skipIf (s.getV x == s.getV y))

/-- 9XY0, skip if VX != VY (R108). -/
def exec9XY0 (x y : RegIx) (s : State) : Result := .next (s.skipIf (s.getV x != s.getV y))

/-- BNNN, jump to NNN + V0 (R109). -/
def execBNNN (nnn : Addr) (s : State) : Result := .next (s.setPc (s.indexedTarget nnn))

end Sys2Proof.Machine
end

