-- ==== Sys2Proof/Machine/Display.lean ====
section
/-! DEFINITION. The framebuffer unit and its two instructions (spec/43_display.md R160 to R163). -/

namespace Sys2Proof.Machine

/-- `FB[x][y]`, column x, row y (R28, R160). -/
def FrameBuffer.pixel (fb : FrameBuffer) (x : Fin 64) (y : Fin 32) : Bool := fb[x.val][y.val]

/-- `FB[x][y] <- b` (R28). -/
def FrameBuffer.setPixel (fb : FrameBuffer) (x : Fin 64) (y : Fin 32) (b : Bool) : FrameBuffer :=
  fb.set x.val (fb[x.val].set y.val b)

/-- Every pixel off. -/
def FrameBuffer.clear : FrameBuffer := Vector.replicate 64 (Vector.replicate 32 false)

/-- A draw in progress: the framebuffer so far, and whether a lit pixel was hit so far (R162). -/
structure Drawing where
  fb : FrameBuffer
  collided : Bool
  deriving DecidableEq, Repr

/-- One sprite bit: a set bit flips its pixel and notes a collision when the pixel was on; coordinates wrap (R162). -/
def Drawing.bit (d : Drawing) (set : Bool) (x y : Nat) : Drawing :=
  if set then
    let px := Fin.ofNat 64 x
    let py := Fin.ofNat 32 y
    let old := d.fb.pixel px py
    { fb := d.fb.setPixel px py (!old), collided := d.collided || old }
  else d

/-- One row byte at row `y`: the most significant bit is the leftmost pixel (R160, R162). -/
def Drawing.row (d : Drawing) (b : Byte) (x0 y : Nat) : Drawing :=
  (List.range 8).foldl (fun e col => e.bit (b.getLsbD (7 - col)) (x0 + col) y) d

/-- The sprite's rows, read from I on, drawn from its origin (R162). -/
def State.drawSprite (s : State) (x0 y0 n : Nat) : Drawing :=
  (List.range n).foldl (fun d row => d.row (s.memRead (s.indexed row)) x0 (y0 + row)) ⟨s.fb, false⟩

/-- The framebuffer as drawn and the redraw hint; VF, the collision, last (R83, R162). -/
def State.showDrawing (s : State) (d : Drawing) : State :=
  { s with fb := d.fb, redraw := true }.setFlag d.collided

/-- 00E0, clear screen; sets the redraw hint (R161). -/
def exec00E0 (s : State) : Result := .next { s with fb := FrameBuffer.clear, redraw := true }

/-- DXYN, draw an N-row sprite at (VX, VY); the origin is read before VF is written (R162, C4). -/
def execDXYN (x y : RegIx) (n : Nibble) (s : State) : Result :=
  s.checkRange (s.indexed 0) n.toNat (s.showDrawing (s.drawSprite (s.originX x) (s.originY y) n.toNat))

end Sys2Proof.Machine
end

