-- ==== Sys2Proof/Machine/IndexMemory.lean ====
section
/-! DEFINITION. The index register and the memory instructions (spec/42_index_memory.md R140 to R146). A failed
CheckRange ends the instruction before any access; I is not changed by an access. -/

namespace Sys2Proof.Machine

/-- ANNN, load index register; the value is not checked (R140). -/
def execANNN (nnn : Addr) (s : State) : Result := .next (s.setI (addrWord nnn))

/-- FX1E, add register to index; MemoryOutOfRange with the sum when it is at or beyond MEM_SIZE, I unchanged; VF is
never a flag here (R141). -/
def execFX1E (x : RegIx) (s : State) : Result :=
  let sum := s.indexed (s.getV x).toNat
  if sum < s.cfg.memSize then .next (s.setI (BitVec.ofNat 16 sum))
  else raise (.memoryOutOfRange s.instrAddr sum)

/-- FX29, point I at the glyph of VX's low nibble; no access and no error (R142). -/
def execFX29 (x : RegIx) (s : State) : Result :=
  .next (s.setI (BitVec.ofNat 16 (s.glyphAddr (s.lowNibble x))))

/-- The three decimal digits of a byte: hundreds, tens, ones (R143). -/
def bcdDigits (b : Byte) : List Byte :=
  [BitVec.ofNat 8 (b.toNat / 100), BitVec.ofNat 8 (b.toNat / 10 % 10), BitVec.ofNat 8 (b.toNat % 10)]

/-- FX33, store the decimal digits of VX at I, I+1, I+2 (R143). -/
def execFX33 (x : RegIx) (s : State) : Result :=
  s.checkRange (s.indexed 0) 3 (s.memWrites (s.indexed 0) (bcdDigits (s.getV x)))

/-- FX55, store V0 to VX from I on (R144). -/
def execFX55 (x : RegIx) (s : State) : Result :=
  s.checkRange (s.indexed 0) (x.toNat + 1) (s.memWrites (s.indexed 0) ((regsUpTo x).map s.getV))

/-- Loads `V[r] <- MEM[I + r]` for each register of the list in turn (R145). -/
def State.loadRegs (s : State) : List RegIx → State
  | [] => s
  | r :: rs => (s.setV r (s.memRead (s.indexed r.toNat))).loadRegs rs

/-- FX65, load V0 to VX from I on (R145). -/
def execFX65 (x : RegIx) (s : State) : Result :=
  s.checkRange (s.indexed 0) (x.toNat + 1) (s.loadRegs (regsUpTo x))

end Sys2Proof.Machine
end

