-- ==== Sys2Proof/Machine/InputTimer.lean ====
section
/-! DEFINITION. The key and timer instructions (spec/44_input_timer.md R180 to R185). None raises an error. -/

namespace Sys2Proof.Machine

/-- EX9E, skip if key VX AND 0xF is held (R180). -/
def execEX9E (x : RegIx) (s : State) : Result := .next (s.skipIf (s.keyHeld (s.lowNibble x)))

/-- EXA1, skip if key VX AND 0xF is not held (R181). -/
def execEXA1 (x : RegIx) (s : State) : Result := .next (s.skipIf (!s.keyHeld (s.lowNibble x)))

/-- The lowest held key, scanning 0 to 15 (R182). -/
def State.lowestKey (s : State) : Option (BitVec 4) := (regsUpTo 0xF).find? s.keyHeld

/-- FX0A, the lowest held key into VX; with none held PC goes back to this instruction and nothing else changes
(R182, C6). -/
def execFX0A (x : RegIx) (s : State) : Result :=
  match s.lowestKey with
  | some k => .next (s.setV x (k.zeroExtend 8))
  | none => .next (s.setPc (s.pc - 2))

/-- FX07, read delay timer (R183). -/
def execFX07 (x : RegIx) (s : State) : Result := .next (s.setV x s.dt)

/-- FX15, set delay timer (R184). -/
def execFX15 (x : RegIx) (s : State) : Result := .next (s.setDt (s.getV x))

/-- FX18, set sound timer (R185). -/
def execFX18 (x : RegIx) (s : State) : Result := .next (s.setSt (s.getV x))

end Sys2Proof.Machine
end

