-- ==== Sys2Proof/Machine/Step.lean ====
section
/-! DEFINITION. The Step transaction (spec/30_encoding.md R71): fetch, advance, decode, execute. -/

namespace Sys2Proof.Machine

/-- One step (R71). A fetch error leaves the state alone; an unrecognised word follows the policy (R80). -/
def step (s : State) : Host.Outcome State Fault Refusal :=
  match s.fetch with
  | .error f => raise f
  | .ok w =>
    match decodeWord w with
    | none => s.advance.unrecognisedWord w
    | some i => exec i s.advance

/-- `s` with the instruction of `decodeTableWord nbits w` stored at PC, where `step` fetches (R72; log entry 13). -/
def State.withFetchWord (s : State) (nbits w : Nat) : State := s.placeWord (BitVec.ofNat 16 (w % 2 ^ nbits))

end Sys2Proof.Machine
end

