-- ==== Sys2Proof/Machine/Transactions.lean ====
section
/-! DEFINITION. The host interface: every transaction of spec/60_exceptions.md R220, each applied whole to the state
the previous one left (R221). `step` is one of them; a run of the core is any list of them, in any order. -/

namespace Sys2Proof.Machine

/-- The transactions of R220 with their inputs. The random byte of a Step is the free value of `Config.randomByte`. -/
inductive Transaction where
  | init (c : Config)
  | loadProgram (bytes : List Byte)
  | step
  | tickDelay
  | tickSound
  | setKeys (k : Vector Bool 16)
  | readFramebuffer
  | readSound
  deriving DecidableEq, Repr

/-- The outcome of a Step (R14). -/
inductive StepOutcome where
  | ok
  /-- An unrecognised word, executed as a no-op under `nop_report` (R206). -/
  | unknown (w : Word)
  /-- An error with its information (R200). -/
  | error (f : Fault)
  /-- An instruction without a meaning; the model has none, so no step answers it. -/
  | refused (r : Refusal)
  deriving DecidableEq, Repr

/-- What a transaction returns to the host (R220). -/
inductive Response where
  /-- Nothing to return: Init, TickDelay, TickSound, SetKeys, and a LoadProgram that succeeded. -/
  | done
  /-- A LoadProgram that failed (R201). -/
  | loadError (f : Fault)
  /-- A Step's `(outcome, redraw)` (R14). -/
  | stepped (outcome : StepOutcome) (redraw : Bool)
  /-- The snapshot of ReadFramebuffer (R217). -/
  | framebuffer (fb : FrameBuffer)
  /-- The sound signal of ReadSound (R216). -/
  | sound (on : Bool)
  deriving DecidableEq, Repr

/-- The sound signal, `ST > 0` (R32). -/
def State.soundSignal (s : State) : Bool := decide (0 < s.st.toNat)

/-- Counts a timer down by 1 unless it is 0 (R213). -/
def countDown (b : Byte) : Byte := if 0 < b.toNat then BitVec.ofNat 8 (b.toNat - 1) else b

/-- TickDelay (R213). -/
def State.tickDelay (s : State) : State := s.setDt (countDown s.dt)

/-- TickSound (R214). -/
def State.tickSound (s : State) : State := s.setSt (countDown s.st)

/-- SetKeys: all 16 flags at once (R218). -/
def State.setKeys (s : State) (k : Vector Bool 16) : State := { s with key := k }

/-- The bytes a program may have: `MEM_SIZE - 0x200` (R201, R242). -/
def State.programRoom (s : State) : Nat := s.cfg.memSize - Config.progStart

/-- LoadProgram: LoadOverflow and no change, or the bytes copied to 0x200 on and nothing else (R242, R243). -/
def State.loadProgram (s : State) (bytes : List Byte) : Except Fault State :=
  if s.programRoom < bytes.length then .error (.loadOverflow bytes.length)
  else .ok (s.memWrites Config.progStart bytes)

/-- The outcome of a step that completed in `t` (R14). -/
def State.completed (t : State) : StepOutcome :=
  match t.unknownWord with
  | some w => .unknown w
  | none => .ok

/-- Step as the host sees it: outcome and redraw hint, and the next state, after an error too (R14, R203). -/
def State.stepTransaction (s : State) : Response × State :=
  match step s with
  | .next t => (.stepped t.completed t.redraw, t)
  | .fault f => (.stepped (.error f) false, s.errorState)
  | .refused r => (.stepped (.refused r) false, s)

/-- One transaction: what it returns and the state it leaves (R220). -/
def transact (x : Transaction) (s : State) : Response × State :=
  match x with
  | .init c => (.done, State.init c s.draws)
  | .loadProgram bytes =>
    match s.loadProgram bytes with
    | .ok t => (.done, t)
    | .error f => (.loadError f, s)
  | .step => s.stepTransaction
  | .tickDelay => (.done, s.tickDelay)
  | .tickSound => (.done, s.tickSound)
  | .setKeys k => (.done, s.setKeys k)
  | .readFramebuffer => (.framebuffer s.fb, s)
  | .readSound => (.sound s.soundSignal, s)

/-- The error a response reports, if it reports one (R200). -/
def Response.error : Response → Option Fault
  | .loadError f => some f
  | .stepped (.error f) _ => some f
  | _ => none

/-- A run whose host goes on after errors (R210, R222). -/
def runAll : List Transaction → State → State
  | [], s => s
  | x :: xs, s => runAll xs (transact x s).2

/-- A run that an error ends for good, as a fault (R210, D24). -/
def runToFault : List Transaction → State → Result
  | [], s => .next s
  | x :: xs, s =>
    match (transact x s).1.error with
    | some f => .fault f
    | none => runToFault xs (transact x s).2

/-- Several instructions executed one after another, without fetching: the first error ends it. -/
def execAll : List Instr → State → Result
  | [], s => .next s
  | i :: is, s =>
    match exec i s with
    | .next t => execAll is t
    | .fault f => .fault f
    | .refused r => .refused r

end Sys2Proof.Machine
end

