-- ==== Sys2Proof/Safety.lean ====
section
/-! DEFINITION. What counts as a good state and a safe run, in the terms the statements use. -/

namespace Sys2Proof

open Machine

/-- The invariant of the machine: the configuration keeps its constraints (R6, R7), memory is canonical and lists
only addresses that exist (R30, R50), and the stack holds at most 16 entries (R25). -/
def Machine.State.Inv (s : State) : Prop :=
  s.cfg.wellFormed = true ∧ Memory.wf s.cfg s.mem ∧ (∀ p ∈ s.mem, p.1 < s.cfg.memSize) ∧
    s.stack.length ≤ Config.stackDepth

/-- The transaction gives Init a configuration that keeps its constraints (R6, R7). -/
def Machine.Transaction.admissible : Transaction → Bool
  | .init c => c.wellFormed
  | _ => true

/-- The step completes: the core raises no error (R200). -/
def Machine.State.stepIsSafe (s : State) : Prop := ∃ t, step s = .next t

/-- No transaction of the run reports an error (R210). -/
def runIsSafe (xs : List Transaction) (s : State) : Prop := ∃ t, runToFault xs s = .next t

/-- A fetch at PC succeeds: PC is even or odd fetches are allowed, and both bytes exist (R72). -/
abbrev Machine.State.fetchable (s : State) : Prop :=
  (s.cfg.misalignedFetch = .execute ∨ s.pc.getLsbD 0 = false) ∧ s.pc.toNat + 1 < s.cfg.memSize

/-! ### Frames: what an instruction may write (spec/10_state.md R22, spec/20_memory.md R57) -/

/-- The registers in the "writes" column of R22's table; VF where the instruction writes it as a flag (R21). -/
def Instr.registersWritten : Instr → List RegIx
  | .op6XNN x _ | .op7XNN x _ | .opCXNN x _ => [x]
  | .op8XY0 x _ | .op8XY1 x _ | .op8XY2 x _ | .op8XY3 x _ => [x]
  | .op8XY4 x _ | .op8XY5 x _ | .op8XY6 x _ | .op8XY7 x _ | .op8XYE x _ => [x, vF]
  | .opDXYN _ _ _ => [vF]
  | .opFX07 x | .opFX0A x => [x]
  | .opFX65 x => regsUpTo x
  | .op00E0 | .op00EE | .op1NNN _ | .op2NNN _ | .op3XNN _ _ | .op4XNN _ _ | .op5XY0 _ _ | .op9XY0 _ _ => []
  | .opANNN _ | .opBNNN _ | .opEX9E _ | .opEXA1 _ | .opFX15 _ | .opFX18 _ => []
  | .opFX1E _ | .opFX29 _ | .opFX33 _ | .opFX55 _ => []

/-- The addresses an instruction stores to, from I on: three for FX33, X + 1 for FX55, none for the others (R57). -/
def Instr.addressesStored (i : Instr) (s : State) : List Nat :=
  match i with
  | .opFX33 _ => [s.indexed 0, s.indexed 1, s.indexed 2]
  | .opFX55 x => (List.range (x.toNat + 1)).map s.indexed
  | .op00E0 | .op00EE | .op1NNN _ | .op2NNN _ | .op3XNN _ _ | .op4XNN _ _ | .op5XY0 _ _ | .op9XY0 _ _ => []
  | .op6XNN _ _ | .op7XNN _ _ | .opCXNN _ _ | .op8XY0 _ _ | .op8XY1 _ _ | .op8XY2 _ _ | .op8XY3 _ _ => []
  | .op8XY4 _ _ | .op8XY5 _ _ | .op8XY6 _ _ | .op8XY7 _ _ | .op8XYE _ _ | .opDXYN _ _ _ => []
  | .opANNN _ | .opBNNN _ | .opEX9E _ | .opEXA1 _ | .opFX07 _ | .opFX0A _ | .opFX15 _ | .opFX18 _ => []
  | .opFX1E _ | .opFX29 _ | .opFX65 _ => []

/-- Every general register but those listed reads as before. -/
def keepsRegsBut (xs : List RegIx) (s t : State) : Prop := ∀ r, r ∉ xs → t.getV r = s.getV r

/-- Every byte of memory but those at the addresses listed reads as before. -/
def keepsBytesBut (as : List Nat) (s t : State) : Prop := ∀ a, a ∉ as → t.memRead a = s.memRead a

/-! ### The display (spec/43_display.md R162) -/

/-- Pixel (px, py) is the target of a set bit of the sprite that DXYN draws from `s` (R162). -/
def Machine.State.spriteHits (s : State) (x y : RegIx) (n : Nibble) (px : Fin 64) (py : Fin 32) : Prop :=
  ∃ row, row < n.toNat ∧ ∃ col, col < 8 ∧
    (s.memRead (s.i.toNat + row)).getLsbD (7 - col) = true ∧
    ((s.getV x).toNat % 64 + col) % 64 = px.val ∧ ((s.getV y).toNat % 32 + row) % 32 = py.val

end Sys2Proof
end

