-- ==== Sys2Proof/Certificates/Slice0/Obligations.lean ====
section
/-! DEFINITION. The statements for the provers. A statement's docstring names the rules of spec/ it formalises;
where a rule is the spec's own decision, or the model's choice, it says so. In `exec i s` the state `s` is the
advanced one: PC holds ia + 2 (spec/30_encoding.md R73). -/

open Sys2Proof Sys2Proof.Machine

/-! ### Encoding and decoding -/

/-- R70, R74, R76: every instruction, with every operand, decodes from its own word and from its own bytes, whatever
bytes follow. -/
def Obligations.DecodeOfEncodeIsInstruction : Prop :=
  ∀ (i : Instr) (rest : List Byte),
    decodeWord (encode i) = some i ∧ decode (encodeBytes i ++ rest) = .ok (i, rest)

/-- R76, R82: a word that decodes is the encoding of what it decodes to, so no bit of a word is dropped. -/
def Obligations.DecodedWordIsItsEncoding : Prop :=
  ∀ (w : Word) (i : Instr), decodeWord w = some i → encode i = w

/-- R77, R78, R79, R81: exactly these words are unrecognised (R81's strictness is the spec's decision D9). -/
def Obligations.UnrecognisedWordsAreThese : Prop :=
  ∀ w : Word, decodeWord w = none ↔
    (fieldClass w = 0x0 ∧ w ≠ 0x00E0 ∧ w ≠ 0x00EE) ∨
    (fieldClass w = 0x5 ∧ fieldN w ≠ 0) ∨
    (fieldClass w = 0x8 ∧ fieldN w ∈ [(0x8 : BitVec 4), 0x9, 0xA, 0xB, 0xC, 0xD, 0xF]) ∨
    (fieldClass w = 0x9 ∧ fieldN w ≠ 0) ∨
    (fieldClass w = 0xE ∧ fieldNN w ∉ [(0x9E : BitVec 8), 0xA1]) ∨
    (fieldClass w = 0xF ∧
      fieldNN w ∉ [(0x07 : BitVec 8), 0x0A, 0x15, 0x18, 0x1E, 0x29, 0x33, 0x55, 0x65])

/-- R76, R80, R82 and spec/opcode_table.json: the decoder and the table's mask and match columns agree on every
word: a decoded word is covered by its instruction's row and by no other, an unrecognised word by none. -/
def Obligations.DecoderAgreesWithOpcodeTable : Prop :=
  ∀ w : Word,
    (∀ i, decodeWord w = some i → (opcodeTable.filter (·.covers w)).map OpcodeRow.pattern = [i.pattern]) ∧
    (decodeWord w = none → recognised w = false)

/-- R74, R76: words of each family, written out bit by bit, decode to the instructions they stand for. -/
def Obligations.SampleWordsDecode : Prop :=
  decodeWord 0b0000000011100000#16 = some .op00E0 ∧
  decodeWord 0b0001001000110100#16 = some (.op1NNN 0x234) ∧
  decodeWord 0b1000101010110100#16 = some (.op8XY4 0xA 0xB) ∧
  decodeWord 0b1010001100000000#16 = some (.opANNN 0x300) ∧
  decodeWord 0b1101000100100101#16 = some (.opDXYN 0x1 0x2 0x5) ∧
  decodeWord 0b1110010010011110#16 = some (.opEX9E 0x4) ∧
  decodeWord 0b1111001001010101#16 = some (.opFX55 0x2)

/-! ### The step -/

/-- R55, R71, R72, R73: when the two bytes at PC exist, may be fetched and decode to an instruction, the step is that
instruction executed in the state with PC advanced by 2 and the step's outputs cleared. -/
def Obligations.StepRunsDecodedInstruction : Prop :=
  ∀ (s : State) (i : Instr), s.fetchable →
    decode [s.memRead s.pc.toNat, s.memRead (s.pc.toNat + 1)] = .ok (i, []) →
    step s = exec i { s with pc := s.pc + 2, redraw := false, unknownWord := none }

/-- R80, R206 (the policy is the spec's decision D8): an unrecognised word only advances PC, and is reported as a
diagnostic or as an error; under `fatal` the state after the error is the same one. -/
def Obligations.UnrecognisedWordOnlyAdvances : Prop :=
  ∀ (s : State) (w : Word), s.fetchable →
    decode [s.memRead s.pc.toNat, s.memRead (s.pc.toNat + 1)] = .error (.unrecognised w) →
    (s.cfg.unknownOpcodePolicy = .nopReport →
      transact .step s = (.stepped (.unknown w) false,
        { s with pc := s.pc + 2, redraw := false, unknownWord := some w })) ∧
    (s.cfg.unknownOpcodePolicy = .fatal →
      transact .step s = (.stepped (.error (.unknownOpcode s.pc w)) false,
        { s with pc := s.pc + 2, redraw := false, unknownWord := none }))

/-- R72, R207, R208 (the spec's decisions D6, D7, D15): a fetch at an odd PC under `fault`, and else a fetch that
reaches MEM_SIZE, are the errors of the fetch, in this order. -/
def Obligations.FetchErrorsInOrder : Prop :=
  ∀ s : State,
    (s.cfg.misalignedFetch = .fault ∧ s.pc.getLsbD 0 = true → step s = .fault (.misalignedFetch s.pc)) ∧
    (¬(s.cfg.misalignedFetch = .fault ∧ s.pc.getLsbD 0 = true) → s.cfg.memSize ≤ s.pc.toNat + 1 →
      step s = .fault (.memoryOutOfRange s.pc (max s.pc.toNat s.cfg.memSize)))

/-- R80, R212: no step is refused; every word has an outcome in every state. -/
def Obligations.NoStepIsRefused : Prop :=
  ∀ (s : State) (r : Refusal), step s ≠ .refused r

/-- R203, R209 (the spec's decision D5): an error names the address its step began at, and leaves no effect but the
advance of PC, and that only if the fetch succeeded; the step answers the error and redraw = false. -/
def Obligations.ErrorsArePreciseAndLeaveNoPartialEffect : Prop :=
  ∀ (s : State) (f : Fault), step s = .fault f →
    f.ia = some s.pc ∧
    ∃ p : Word, (p = if s.fetchable then s.pc + 2 else s.pc) ∧
      transact .step s =
        (.stepped (.error f) false, { s with pc := p, redraw := false, unknownWord := none })

/-- R14, R71: a step whose instruction completes answers the outcome ok with the redraw output, and leaves the state the
instruction left. -/
def Obligations.CompletedInstructionReportsOk : Prop :=
  ∀ (s t : State) (w : Word) (i : Instr), s.fetch = .ok w → decodeWord w = some i → exec i s.advance = .next t →
    transact .step s = (.stepped .ok t.redraw, t)

/-- R200, R202, R204, R205, R208: the only errors an executing instruction raises, with the condition and the
information of each. -/
def Obligations.InstructionErrorsAreThese : Prop :=
  ∀ (i : Instr) (s : State) (f : Fault), exec i s = .fault f →
    (i = .op00EE ∧ s.stack = [] ∧ f = .stackUnderflow (s.pc - 2)) ∨
    (∃ nnn, i = .op2NNN nnn ∧ 16 ≤ s.stack.length ∧ f = .stackOverflow (s.pc - 2)) ∨
    (∃ x, i = .opFX1E x ∧ s.cfg.memSize ≤ s.i.toNat + (s.getV x).toNat ∧
      f = .memoryOutOfRange (s.pc - 2) (s.i.toNat + (s.getV x).toNat)) ∨
    (∃ x y n, i = .opDXYN x y n ∧ 1 ≤ n.toNat ∧ s.cfg.memSize ≤ s.i.toNat + n.toNat - 1 ∧
      f = .memoryOutOfRange (s.pc - 2) (max s.i.toNat s.cfg.memSize)) ∨
    (∃ x, i = .opFX33 x ∧ s.cfg.memSize ≤ s.i.toNat + 2 ∧
      f = .memoryOutOfRange (s.pc - 2) (max s.i.toNat s.cfg.memSize)) ∨
    (∃ x, (i = .opFX55 x ∨ i = .opFX65 x) ∧ s.cfg.memSize ≤ s.i.toNat + x.toNat ∧
      f = .memoryOutOfRange (s.pc - 2) (max s.i.toNat s.cfg.memSize))

/-- R141, R143, R144, R145, R162, R202: under these conditions the memory instructions do raise MemoryOutOfRange
(FX1E's check at the sum is the spec's decision D12). -/
def Obligations.OutOfRangeAccessesFault : Prop :=
  ∀ (s : State) (x y : RegIx) (n : Nibble),
    (s.cfg.memSize ≤ s.i.toNat + (s.getV x).toNat →
      exec (.opFX1E x) s = .fault (.memoryOutOfRange (s.pc - 2) (s.i.toNat + (s.getV x).toNat))) ∧
    (s.cfg.memSize ≤ s.i.toNat + 2 →
      exec (.opFX33 x) s = .fault (.memoryOutOfRange (s.pc - 2) (max s.i.toNat s.cfg.memSize))) ∧
    (s.cfg.memSize ≤ s.i.toNat + x.toNat →
      exec (.opFX55 x) s = .fault (.memoryOutOfRange (s.pc - 2) (max s.i.toNat s.cfg.memSize)) ∧
      exec (.opFX65 x) s = .fault (.memoryOutOfRange (s.pc - 2) (max s.i.toNat s.cfg.memSize))) ∧
    (1 ≤ n.toNat → s.cfg.memSize ≤ s.i.toNat + n.toNat - 1 →
      exec (.opDXYN x y n) s = .fault (.memoryOutOfRange (s.pc - 2) (max s.i.toNat s.cfg.memSize)))

/-! ### Control flow -/

/-- R103: 1NNN goes to NNN, unchecked, and changes nothing else. -/
def Obligations.JumpGoesToAddress : Prop :=
  (∀ w : Word, fieldClass w = 0x1 → decodeWord w = some (.op1NNN (fieldNNN w))) ∧
  ∀ (s : State) (nnn : Addr), ∃ t, exec (.op1NNN nnn) s = .next t ∧
    t.pc.toNat = nnn.toNat ∧ t = { s with pc := t.pc }

/-- R104, R204: 2NNN pushes the advanced PC and goes to NNN while the stack has room, and overflows when it is full
(the state after the overflow is R203's, the spec's decision D5). -/
def Obligations.CallPushesReturnAddress : Prop :=
  ∀ (s : State) (nnn : Addr),
    (s.stack.length < 16 → ∃ t, exec (.op2NNN nnn) s = .next t ∧ t.pc.toNat = nnn.toNat ∧
      t.stack = s.stack ++ [s.pc] ∧ t = { s with pc := t.pc, stack := t.stack }) ∧
    (s.stack.length = 16 → exec (.op2NNN nnn) s = .fault (.stackOverflow (s.pc - 2)))

/-- R102, R205: 00EE pops the top entry into PC, and underflows on an empty stack. -/
def Obligations.ReturnPopsIntoPc : Prop :=
  ∀ s : State,
    (∀ (rest : List Word) (w : Word), s.stack = rest ++ [w] →
      exec .op00EE s = .next { s with pc := w, stack := rest }) ∧
    (s.stack = [] → exec .op00EE s = .fault (.stackUnderflow (s.pc - 2)))

/-- R100, R105, R106 (that PC wraps modulo 65536 is the spec's decision D21; log entry 25): the byte skips move PC by 2
more exactly when VX equals, or differs from, NN. -/
def Obligations.ByteSkipsCompareRegister : Prop :=
  (∀ w : Word, fieldClass w = 0x3 → decodeWord w = some (.op3XNN (fieldX w) (fieldNN w))) ∧
  (∀ w : Word, fieldClass w = 0x4 → decodeWord w = some (.op4XNN (fieldX w) (fieldNN w))) ∧
  ∀ (s : State) (x : RegIx) (nn : Byte),
    (∃ t, exec (.op3XNN x nn) s = .next t ∧ t = { s with pc := t.pc } ∧
      t.pc.toNat = (s.pc.toNat + if s.getV x = nn then 2 else 0) % 65536) ∧
    (∃ t, exec (.op4XNN x nn) s = .next t ∧ t = { s with pc := t.pc } ∧
      t.pc.toNat = (s.pc.toNat + if s.getV x = nn then 0 else 2) % 65536)

/-- R100, R107, R108 (that PC wraps modulo 65536 is the spec's decision D21; log entry 25): the register skips move PC
by 2 more exactly when VX equals, or differs from, VY. R81 (the spec's decision D9; log entry 15): a word of their class
with another low nibble is neither. -/
def Obligations.RegisterSkipsCompareRegisters : Prop :=
  (∀ w : Word, fieldClass w = 0x5 →
    decodeWord w = if fieldN w = 0 then some (.op5XY0 (fieldX w) (fieldY w)) else none) ∧
  (∀ w : Word, fieldClass w = 0x9 →
    decodeWord w = if fieldN w = 0 then some (.op9XY0 (fieldX w) (fieldY w)) else none) ∧
  ∀ (s : State) (x y : RegIx),
    (∃ t, exec (.op5XY0 x y) s = .next t ∧ t = { s with pc := t.pc } ∧
      t.pc.toNat = (s.pc.toNat + if s.getV x = s.getV y then 2 else 0) % 65536) ∧
    (∃ t, exec (.op9XY0 x y) s = .next t ∧ t = { s with pc := t.pc } ∧
      t.pc.toNat = (s.pc.toNat + if s.getV x = s.getV y then 0 else 2) % 65536)

/-- R109: BNNN goes to NNN + V0, whatever its nibble w[11:8]. R72, R101 (the fetch's range check is the spec's decision
D6, log entry 14; the odd fetch its decision D7, log entry 5): a target whose word does not lie in memory fails at the
next fetch, where that fetch is not stopped earlier for being odd. -/
def Obligations.IndexedJumpAddsV0 : Prop :=
  (∀ w : Word, fieldClass w = 0xB → decodeWord w = some (.opBNNN (fieldNNN w))) ∧
  ∀ (s : State) (nnn : Addr), ∃ t, exec (.opBNNN nnn) s = .next t ∧
    t.pc.toNat = nnn.toNat + (s.getV 0).toNat ∧ t = { s with pc := t.pc } ∧
    (s.cfg.memSize ≤ t.pc.toNat + 1 → s.cfg.misalignedFetch = .execute ∨ t.pc.getLsbD 0 = false →
      step t = .fault (.memoryOutOfRange t.pc (max t.pc.toNat s.cfg.memSize)))

/-- R102, R104 and the source's property S7: calls followed by as many returns end right after the first call, with
the stack as it was, however deep they nest up to the stack's capacity. -/
def Obligations.MatchedCallsAndReturnsBalance : Prop :=
  ∀ (s : State) (calls : List Addr), s.stack.length + calls.length ≤ 16 →
    execAll (calls.map Instr.op2NNN ++ List.replicate calls.length .op00EE) s = .next s

/-! ### Registers and arithmetic -/

/-- R120, R121: 6XNN loads NN; 7XNN adds NN modulo 256, and VF is no flag there. -/
def Obligations.LoadAndAddByte : Prop :=
  (∀ w : Word, fieldClass w = 0x6 → decodeWord w = some (.op6XNN (fieldX w) (fieldNN w))) ∧
  (∀ w : Word, fieldClass w = 0x7 → decodeWord w = some (.op7XNN (fieldX w) (fieldNN w))) ∧
  ∀ (s : State) (x : RegIx) (nn : Byte),
    (∃ t, exec (.op6XNN x nn) s = .next t ∧ t = { s with v := t.v } ∧
      t.getV x = nn ∧ ∀ r, r ≠ x → t.getV r = s.getV r) ∧
    (∃ t, exec (.op7XNN x nn) s = .next t ∧ t = { s with v := t.v } ∧
      (t.getV x).toNat = ((s.getV x).toNat + nn.toNat) % 256 ∧ ∀ r, r ≠ x → t.getV r = s.getV r)

/-- R122: 8XY0 copies VY into VX. -/
def Obligations.CopyRegister : Prop :=
  (∀ w : Word, fieldClass w = 0x8 → fieldN w = 0x0 → decodeWord w = some (.op8XY0 (fieldX w) (fieldY w))) ∧
  ∀ (s : State) (x y : RegIx), ∃ t, exec (.op8XY0 x y) s = .next t ∧ t = { s with v := t.v } ∧
    t.getV x = s.getV y ∧ ∀ r, r ≠ x → t.getV r = s.getV r

/-- R123, R124, R125: OR, AND and XOR, bit by bit; VF keeps its value unless it is VX (the spec's decision D11). -/
def Obligations.LogicIsBitwise : Prop :=
  ∀ (s : State) (x y : RegIx), ∃ t u w,
    exec (.op8XY1 x y) s = .next t ∧ exec (.op8XY2 x y) s = .next u ∧ exec (.op8XY3 x y) s = .next w ∧
    (∀ k, (t.getV x).getLsbD k = ((s.getV x).getLsbD k || (s.getV y).getLsbD k)) ∧
    (∀ k, (u.getV x).getLsbD k = ((s.getV x).getLsbD k && (s.getV y).getLsbD k)) ∧
    (∀ k, (w.getV x).getLsbD k = ((s.getV x).getLsbD k != (s.getV y).getLsbD k)) ∧
    (∀ r, r ≠ x → t.getV r = s.getV r ∧ u.getV r = s.getV r ∧ w.getV r = s.getV r) ∧
    t = { s with v := t.v } ∧ u = { s with v := u.v } ∧ w = { s with v := w.v }

/-- R126: the sum modulo 256 into VX, then VF is 1 exactly when the unwrapped sum exceeds 255; with X = F the flag
stays. -/
def Obligations.AddSetsCarry : Prop :=
  (∀ w : Word, fieldClass w = 0x8 → fieldN w = 0x4 → decodeWord w = some (.op8XY4 (fieldX w) (fieldY w))) ∧
  ∀ (s : State) (x y : RegIx), ∃ t, exec (.op8XY4 x y) s = .next t ∧ t = { s with v := t.v } ∧
    (x ≠ 0xF → (t.getV x).toNat = ((s.getV x).toNat + (s.getV y).toNat) % 256) ∧
    (t.getV 0xF).toNat = (if 255 < (s.getV x).toNat + (s.getV y).toNat then 1 else 0) ∧
    ∀ r, r ≠ x → r ≠ 0xF → t.getV r = s.getV r

/-- R127, R129: the differences VX - VY and VY - VX modulo 256 into VX, then VF is 1 exactly when there is no borrow;
with X = F the flag stays. -/
def Obligations.SubtractSetsNoBorrow : Prop :=
  (∀ w : Word, fieldClass w = 0x8 → fieldN w = 0x5 → decodeWord w = some (.op8XY5 (fieldX w) (fieldY w))) ∧
  (∀ w : Word, fieldClass w = 0x8 → fieldN w = 0x7 → decodeWord w = some (.op8XY7 (fieldX w) (fieldY w))) ∧
  ∀ (s : State) (x y : RegIx),
    (∃ t, exec (.op8XY5 x y) s = .next t ∧ t = { s with v := t.v } ∧
      (x ≠ 0xF → (t.getV x).toNat = ((s.getV x).toNat + 256 - (s.getV y).toNat) % 256) ∧
      (t.getV 0xF).toNat = (if (s.getV y).toNat ≤ (s.getV x).toNat then 1 else 0) ∧
      ∀ r, r ≠ x → r ≠ 0xF → t.getV r = s.getV r) ∧
    (∃ t, exec (.op8XY7 x y) s = .next t ∧ t = { s with v := t.v } ∧
      (x ≠ 0xF → (t.getV x).toNat = ((s.getV y).toNat + 256 - (s.getV x).toNat) % 256) ∧
      (t.getV 0xF).toNat = (if (s.getV x).toNat ≤ (s.getV y).toNat then 1 else 0) ∧
      ∀ r, r ≠ x → r ≠ 0xF → t.getV r = s.getV r)

/-- R128, R130: VX halved, and VX doubled modulo 256, then VF is the bit shifted out; VY is not read; with X = F the
flag stays. -/
def Obligations.ShiftsSetBitShiftedOut : Prop :=
  (∀ w : Word, fieldClass w = 0x8 → fieldN w = 0x6 → decodeWord w = some (.op8XY6 (fieldX w) (fieldY w))) ∧
  (∀ w : Word, fieldClass w = 0x8 → fieldN w = 0xE → decodeWord w = some (.op8XYE (fieldX w) (fieldY w))) ∧
  ∀ (s : State) (x y : RegIx),
    (∃ t, exec (.op8XY6 x y) s = .next t ∧ t = { s with v := t.v } ∧
      (x ≠ 0xF → (t.getV x).toNat = (s.getV x).toNat / 2) ∧
      (t.getV 0xF).toNat = (s.getV x).toNat % 2 ∧
      ∀ r, r ≠ x → r ≠ 0xF → t.getV r = s.getV r) ∧
    (∃ t, exec (.op8XYE x y) s = .next t ∧ t = { s with v := t.v } ∧
      (x ≠ 0xF → (t.getV x).toNat = (s.getV x).toNat * 2 % 256) ∧
      (t.getV 0xF).toNat = (s.getV x).toNat / 128 ∧
      ∀ r, r ≠ x → r ≠ 0xF → t.getV r = s.getV r)

/-- R15, R131 (the free byte is the spec's decision D18; log entry 8): CXNN completes whatever byte is drawn, takes
one draw, and every bit of VX where NN is 0 is 0; the bits where NN is 1 are the draw's. It holds for every value of
the free byte and of the counter. -/
def Obligations.RandomByteIsMasked : Prop :=
  ∀ (s : State) (x : RegIx) (nn : Byte), ∃ t, exec (.opCXNN x nn) s = .next t ∧
    t = { s with v := t.v, draws := s.draws + 1 } ∧
    (∀ k, nn.getLsbD k = false → (t.getV x).getLsbD k = false) ∧
    (∀ k, nn.getLsbD k = true → (t.getV x).getLsbD k = (Config.randomByte s.draws).getLsbD k) ∧
    ∀ r, r ≠ x → t.getV r = s.getV r

/-! ### Index register and memory -/

/-- R140: ANNN sets I to NNN, unchecked. R54 (that an access checks its whole range first is the spec's decision D5; log
entry 12): when NNN is at or beyond MEM_SIZE it is a later access through I that raises MemoryOutOfRange. -/
def Obligations.LoadIndexRegister : Prop :=
  (∀ w : Word, fieldClass w = 0xA → decodeWord w = some (.opANNN (fieldNNN w))) ∧
  ∀ (s : State) (nnn : Addr), ∃ t, exec (.opANNN nnn) s = .next t ∧
    t.i.toNat = nnn.toNat ∧ t = { s with i := t.i } ∧
    (s.cfg.memSize ≤ nnn.toNat → ∀ (x y : RegIx) (n : Nibble), 1 ≤ n.toNat →
      ∀ i ∈ [Instr.opFX33 x, .opFX55 x, .opFX65 x, .opDXYN x y n],
        exec i t = .fault (.memoryOutOfRange (s.pc - 2) nnn.toNat))

/-- R141 (the spec's decision D12), R6: while the sum lies in memory FX1E adds VX to I exactly, and VF is no flag. The
constraint on MEM_SIZE says that the sum fits in 16 bits. -/
def Obligations.AddRegisterToIndex : Prop :=
  ∀ (s : State) (x : RegIx), s.cfg.wellFormed = true → s.i.toNat + (s.getV x).toNat < s.cfg.memSize →
    ∃ t, exec (.opFX1E x) s = .next t ∧
      t.i.toNat = s.i.toNat + (s.getV x).toNat ∧ t = { s with i := t.i }

/-- R142, R7 (D2 and D31 are the spec's decisions): FX29 points I at the glyph of VX's low nibble, which lies below
0x200, and reads no memory. -/
def Obligations.GlyphAddressOfDigit : Prop :=
  ∀ (s : State) (x : RegIx), s.cfg.wellFormed = true →
    ∃ t, exec (.opFX29 x) s = .next t ∧ t = { s with i := t.i } ∧
      t.i.toNat = s.cfg.fontBase + 5 * ((s.getV x).toNat % 16) ∧ t.i.toNat + 4 < 0x200

/-- R143: FX33 stores hundreds, tens and ones of VX at I, I+1 and I+2, and changes nothing else. -/
def Obligations.StoreDecimalDigits : Prop :=
  ∀ (s : State) (x : RegIx), s.i.toNat + 2 < s.cfg.memSize →
    ∃ t, exec (.opFX33 x) s = .next t ∧ t = { s with mem := t.mem } ∧
      (t.memRead s.i.toNat).toNat = (s.getV x).toNat / 100 ∧
      (t.memRead (s.i.toNat + 1)).toNat = (s.getV x).toNat / 10 % 10 ∧
      (t.memRead (s.i.toNat + 2)).toNat = (s.getV x).toNat % 10 ∧
      ∀ a, a < s.i.toNat ∨ s.i.toNat + 2 < a → t.memRead a = s.memRead a

/-- R144 (that I keeps its value is the spec's decision D10): FX55 stores V0 to VX from I on, and changes nothing
else. -/
def Obligations.StoreRegisters : Prop :=
  ∀ (s : State) (x : RegIx), s.i.toNat + x.toNat < s.cfg.memSize →
    ∃ t, exec (.opFX55 x) s = .next t ∧ t = { s with mem := t.mem } ∧
      (∀ r : RegIx, r.toNat ≤ x.toNat → t.memRead (s.i.toNat + r.toNat) = s.getV r) ∧
      ∀ a, a < s.i.toNat ∨ s.i.toNat + x.toNat < a → t.memRead a = s.memRead a

/-- R145 (that I keeps its value is the spec's decision D10): FX65 loads V0 to VX from I on; the registers above VX
and everything else keep their values. -/
def Obligations.LoadRegisters : Prop :=
  ∀ (s : State) (x : RegIx), s.i.toNat + x.toNat < s.cfg.memSize →
    ∃ t, exec (.opFX65 x) s = .next t ∧ t = { s with v := t.v } ∧
      (∀ r : RegIx, r.toNat ≤ x.toNat → t.getV r = s.memRead (s.i.toNat + r.toNat)) ∧
      ∀ r : RegIx, x.toNat < r.toNat → t.getV r = s.getV r

/-- R144, R145: FX65 with the same X and the same I gives back the registers that FX55 stored, whatever the other
state is by then. -/
def Obligations.LoadGivesBackStoredRegisters : Prop :=
  ∀ (s t u : State) (x : RegIx), exec (.opFX55 x) s = .next t →
    u.mem = t.mem → u.cfg = t.cfg → u.i = t.i →
    ∃ w, exec (.opFX65 x) u = .next w ∧ ∀ r : RegIx, r.toNat ≤ x.toNat → w.getV r = s.getV r

/-- R143, R145: the digits FX33 stores, loaded by F265, are decimal digits and make up VX again. -/
def Obligations.StoredDigitsMakeUpTheByte : Prop :=
  ∀ (s t : State) (x : RegIx), exec (.opFX33 x) s = .next t →
    ∃ w, exec (.opFX65 0x2) t = .next w ∧
      (w.getV 0).toNat ≤ 2 ∧ (w.getV 1).toNat ≤ 9 ∧ (w.getV 2).toNat ≤ 9 ∧
      100 * (w.getV 0).toNat + 10 * (w.getV 1).toNat + (w.getV 2).toNat = (s.getV x).toNat

/-- R64, R248 (the spec's decision D25): the word that FX55 writes is the word the next fetch at that place reads. -/
def Obligations.StoredWordIsFetched : Prop :=
  ∀ (s t : State) (x : RegIx), 1 ≤ x.toNat → exec (.opFX55 x) s = .next t →
    (s.cfg.misalignedFetch = .execute ∨ s.i.getLsbD 0 = false) →
    ({ t with pc := s.i } : State).fetch = .ok (s.getV 0 ++ s.getV 1)

/-! ### Display -/

/-- R161 (that the redraw hint is set is the spec's decision D16): 00E0 turns every pixel off and sets the hint. -/
def Obligations.ClearScreenTurnsPixelsOff : Prop :=
  ∀ s : State, ∃ t, exec .op00E0 s = .next t ∧ (∀ px py, t.fb.pixel px py = false) ∧
    t = { s with fb := t.fb, redraw := true }

/-- R162, R163 laws 1 and 2 (N = 0 is the spec's decision D26): the loop of DXYN flips exactly the pixels that a set
sprite bit targets; VF is 1 when one of them was on and else 0, and the origin is read before VF is written; the
redraw hint is set. -/
def Obligations.DrawFlipsTargetedPixels : Prop :=
  ∀ (s : State) (x y : RegIx) (n : Nibble), n = 0 ∨ s.i.toNat + n.toNat - 1 < s.cfg.memSize →
    ∃ t, exec (.opDXYN x y n) s = .next t ∧ t = { s with v := t.v, fb := t.fb, redraw := true } ∧
      (∀ px py, s.spriteHits x y n px py → t.fb.pixel px py = !s.fb.pixel px py) ∧
      (∀ px py, ¬s.spriteHits x y n px py → t.fb.pixel px py = s.fb.pixel px py) ∧
      ((∃ px py, s.spriteHits x y n px py ∧ s.fb.pixel px py = true) → t.getV 0xF = 1) ∧
      ((∀ px py, s.spriteHits x y n px py → s.fb.pixel px py = false) → t.getV 0xF = 0) ∧
      ∀ r, r ≠ 0xF → t.getV r = s.getV r

/-- R163 law 3, C5: a second draw of the same sprite at the same coordinates restores the framebuffer, and collides
exactly when the first draw turned a pixel on. (Law 4 says "exactly when the sprite has at least one set bit"; that
holds where the first draw collided with nothing, which is the last clause; log entry 30.) -/
def Obligations.SecondDrawRestoresFramebuffer : Prop :=
  ∀ (s t : State) (x y : RegIx) (n : Nibble), exec (.opDXYN x y n) s = .next t →
    t.getV x = s.getV x → t.getV y = s.getV y →
    ∃ u, exec (.opDXYN x y n) t = .next u ∧ u.fb = s.fb ∧
      (u.getV 0xF = 1 ↔ ∃ px py, s.fb.pixel px py = false ∧ t.fb.pixel px py = true) ∧
      (u.getV 0xF = 0 ↔ ¬∃ px py, s.fb.pixel px py = false ∧ t.fb.pixel px py = true) ∧
      (t.getV 0xF = 0 →
        (u.getV 0xF = 1 ↔ ∃ row, row < n.toNat ∧ s.memRead (s.i.toNat + row) ≠ 0))

/-- R163 law 5: the first draw on a screen that 00E0 cleared sets VF to 0. -/
def Obligations.FirstDrawOnClearedScreenDoesNotCollide : Prop :=
  ∀ (s t u : State) (x y : RegIx) (n : Nibble), exec .op00E0 s = .next t →
    exec (.opDXYN x y n) t = .next u → u.getV 0xF = 0

/-- R31 (the hint of 00E0 is the spec's decision D16; log entry 10): after a completed step the redraw output is set
exactly when the step ran 00E0 or DXYN. -/
def Obligations.RedrawExactlyAfterDisplayInstructions : Prop :=
  ∀ s t : State, step s = .next t →
    (t.redraw = true ↔ ∃ w, s.fetch = .ok w ∧
      (decodeWord w = some .op00E0 ∨ ∃ x y n, decodeWord w = some (.opDXYN x y n)))

/-! ### Keys and timers -/

/-- R100, R180, R181 (that PC wraps modulo 65536 is the spec's decision D21; log entry 25): the key skips test the key
that the low nibble of VX names. -/
def Obligations.KeySkipsTestLowNibble : Prop :=
  (∀ w : Word, fieldClass w = 0xE → fieldNN w = 0x9E → decodeWord w = some (.opEX9E (fieldX w))) ∧
  (∀ w : Word, fieldClass w = 0xE → fieldNN w = 0xA1 → decodeWord w = some (.opEXA1 (fieldX w))) ∧
  ∀ (s : State) (x : RegIx) (k : BitVec 4), k.toNat = (s.getV x).toNat % 16 →
    (∃ t, exec (.opEX9E x) s = .next t ∧ t = { s with pc := t.pc } ∧
      t.pc.toNat = (s.pc.toNat + if s.keyHeld k then 2 else 0) % 65536) ∧
    (∃ t, exec (.opEXA1 x) s = .next t ∧ t = { s with pc := t.pc } ∧
      t.pc.toNat = (s.pc.toNat + if s.keyHeld k then 0 else 2) % 65536)

/-- R182 (re-execution is the spec's decision D17): FX0A stores the lowest held key; with no key held it moves PC back
by 2 and changes nothing else. -/
def Obligations.KeyWaitTakesLowestKey : Prop :=
  ∀ (s : State) (x : RegIx),
    (∀ k : BitVec 4, s.keyHeld k = true → (∀ j : BitVec 4, j.toNat < k.toNat → s.keyHeld j = false) →
      ∃ t, exec (.opFX0A x) s = .next t ∧ t = { s with v := t.v } ∧
        (t.getV x).toNat = k.toNat ∧ ∀ r, r ≠ x → t.getV r = s.getV r) ∧
    ((∀ k : BitVec 4, s.keyHeld k = false) →
      ∃ t, exec (.opFX0A x) s = .next t ∧ t = { s with pc := t.pc } ∧
        t.pc.toNat = (s.pc.toNat + 65536 - 2) % 65536)

/-- R182 and the source's property S8: while no key is held, any number of steps on an FX0A leave every piece of
architectural state as it was. -/
def Obligations.KeyWaitSpinsInPlace : Prop :=
  ∀ (s : State) (w : Word) (x : RegIx) (k : Nat), s.fetch = .ok w → decodeWord w = some (.opFX0A x) →
    (∀ j : BitVec 4, s.keyHeld j = false) →
    Host.Core.run Sys2Proof.core (k + 1) s = .next { s with redraw := false, unknownWord := none }

/-- R183, R184, R185, R32: FX07 reads DT and leaves it; FX15 and FX18 set DT and ST; the sound signal is on exactly
when the value set is not 0. -/
def Obligations.TimersAreReadAndSet : Prop :=
  (∀ w : Word, fieldClass w = 0xF → fieldNN w = 0x07 → decodeWord w = some (.opFX07 (fieldX w))) ∧
  (∀ w : Word, fieldClass w = 0xF → fieldNN w = 0x15 → decodeWord w = some (.opFX15 (fieldX w))) ∧
  (∀ w : Word, fieldClass w = 0xF → fieldNN w = 0x18 → decodeWord w = some (.opFX18 (fieldX w))) ∧
  ∀ (s : State) (x : RegIx),
    (∃ t, exec (.opFX07 x) s = .next t ∧ t = { s with v := t.v } ∧
      t.getV x = s.dt ∧ ∀ r, r ≠ x → t.getV r = s.getV r) ∧
    (∃ t, exec (.opFX15 x) s = .next t ∧ t = { s with dt := s.getV x }) ∧
    (∃ t, exec (.opFX18 x) s = .next t ∧ t = { s with st := s.getV x } ∧
      (transact .readSound t = (.sound (decide (s.getV x ≠ 0)), t)))

/-! ### Frames and whole-machine rules -/

/-- R20, R21, R22: an instruction that completes changes no general register but those R22's table lets it write. -/
def Obligations.RegistersOutsideTheTableAreKept : Prop :=
  ∀ (i : Instr) (s t : State), exec i s = .next t → keepsRegsBut i.registersWritten s t

/-- R57, R22: an instruction that completes changes no byte of memory but those it stores to: I to I+2 for FX33, I to
I+X for FX55, none for every other instruction. -/
def Obligations.MemoryOutsideTheStoresIsKept : Prop :=
  ∀ (i : Instr) (s t : State), exec i s = .next t → keepsBytesBut (i.addressesStored s) s t

/-- R22, R23, R25 to R29, R31, R146: which instructions may change each other piece of state; none changes the keys or
the configuration. -/
def Obligations.EachStateHasItsWriters : Prop :=
  ∀ (i : Instr) (s t : State), exec i s = .next t →
    (t.i ≠ s.i → (∃ nnn, i = .opANNN nnn) ∨ (∃ x, i = .opFX1E x) ∨ ∃ x, i = .opFX29 x) ∧
    (t.stack ≠ s.stack → i = .op00EE ∨ ∃ nnn, i = .op2NNN nnn) ∧
    (t.dt ≠ s.dt → ∃ x, i = .opFX15 x) ∧
    (t.st ≠ s.st → ∃ x, i = .opFX18 x) ∧
    (t.fb ≠ s.fb ∨ t.redraw ≠ s.redraw → i = .op00E0 ∨ ∃ x y n, i = .opDXYN x y n) ∧
    (t.draws ≠ s.draws → ∃ x nn, i = .opCXNN x nn) ∧
    (t.pc ≠ s.pc → i = .op00EE ∨ (∃ nnn, i = .op1NNN nnn ∨ i = .op2NNN nnn ∨ i = .opBNNN nnn) ∨
      (∃ x, i = .opFX0A x) ∨ (t.pc = s.pc + 2 ∧
        ((∃ x nn, i = .op3XNN x nn ∨ i = .op4XNN x nn) ∨ (∃ x y, i = .op5XY0 x y ∨ i = .op9XY0 x y) ∨
          ∃ x, i = .opEX9E x ∨ i = .opEXA1 x))) ∧
    t.key = s.key ∧ t.cfg = s.cfg ∧ t.unknownWord = s.unknownWord

/-- R29, R22: an instruction that is not EX9E, EXA1 or FX0A does the same whatever keys are held. -/
def Obligations.OnlyKeyInstructionsReadKeys : Prop :=
  ∀ (i : Instr) (s : State) (k : Vector Bool 16), (∀ x, i ≠ .opEX9E x ∧ i ≠ .opEXA1 x ∧ i ≠ .opFX0A x) →
    (∀ t, exec i s = .next t → exec i { s with key := k } = .next { t with key := k }) ∧
    ∀ f, exec i s = .fault f → exec i { s with key := k } = .fault f

/-- R27: no instruction reads ST: two states that differ in ST only give results that differ in ST only, or the same
error. -/
def Obligations.NoInstructionReadsSoundTimer : Prop :=
  ∀ (i : Instr) (s : State) (b : Byte),
    (∀ t, exec i s = .next t →
      ∃ u, exec i { s with st := b } = .next u ∧ u = { t with st := u.st }) ∧
    ∀ f, exec i s = .fault f → exec i { s with st := b } = .fault f

/-! ### Invariants and initialisation -/

/-- R25, R30, R50, R6, R7: every step keeps the invariant: the stack within its depth, memory in canonical form and
within MEM_SIZE, the configuration within its constraints. -/
def Obligations.StepKeepsInvariant : Prop :=
  ∀ s t : State, s.Inv → step s = .next t → t.Inv

/-- R34, R240: the invariant holds at reset, and after Init with any configuration that keeps its constraints. -/
def Obligations.InvariantHoldsAfterInit : Prop :=
  State.reset.Inv ∧ ∀ (c : Config) (n : Nat), c.wellFormed = true → (State.init c n).Inv

/-- R220, R221, R222: any list of transactions, in any order, keeps the invariant, through errors too. -/
def Obligations.EveryRunKeepsInvariant : Prop :=
  ∀ (xs : List Transaction) (s : State), (∀ x ∈ xs, x.admissible = true) → s.Inv → (runAll xs s).Inv

/-- R34, R240, R241: what Init leaves, from any state and for every configuration; reset is Init with the default
configuration. PC and memory are the source's; the other values are the spec's decision D4 (log entry 7); the outputs
are the model's (log entry 10), and the counter of draws goes on (log entry 8). -/
def Obligations.InitReplacesTheWholeState : Prop :=
  ∀ (c : Config) (s : State), ∃ t, transact (.init c) s = (.done, t) ∧
    t.pc = 0x200 ∧ (∀ r, t.getV r = 0) ∧ t.i = 0 ∧ t.stack = [] ∧ t.dt = 0 ∧ t.st = 0 ∧
    (∀ px py, t.fb.pixel px py = false) ∧ (∀ k, t.keyHeld k = false) ∧ t.cfg = c ∧
    (∀ j : Fin 80, t.memRead (c.fontBase + j) = c.fontData[j]) ∧
    (∀ a, a < c.fontBase ∨ c.fontBase + 80 ≤ a → t.memRead a = 0) ∧
    t.redraw = false ∧ t.unknownWord = none ∧ t.draws = s.draws ∧
    State.reset = (transact (.init Config.default) { s with draws := 0 }).2

/-! ### Host transactions -/

/-- R213, R214: n ticks of a timer bring it to its value less n, never below 0, and change nothing else. -/
def Obligations.TicksRunTimersDownToZero : Prop :=
  ∀ (s : State) (n : Nat), ∃ t u : State,
    runAll (List.replicate n .tickDelay) s = t ∧ t = { s with dt := t.dt } ∧ t.dt.toNat = s.dt.toNat - n ∧
    runAll (List.replicate n .tickSound) s = u ∧ u = { s with st := u.st } ∧ u.st.toNat = s.st.toNat - n

/-- R218, R29: SetKeys replaces the 16 flags and nothing else, and no step changes them, completed or not. -/
def Obligations.SetKeysReplacesAndStepKeepsKeys : Prop :=
  ∀ (s : State) (k : Vector Bool 16),
    transact (.setKeys k) s = (.done, { s with key := k }) ∧ (transact .step s).2.key = s.key

/-- R242, R243 (the spec's decision D20): LoadProgram copies a program that fits to 0x200 on and changes nothing else;
one that does not fit is an error that changes nothing. -/
def Obligations.LoadProgramCopiesOrFails : Prop :=
  ∀ (s : State) (bytes : List Byte),
    (bytes.length ≤ s.cfg.memSize - 0x200 → ∃ t, transact (.loadProgram bytes) s = (.done, t) ∧
      t = { s with mem := t.mem } ∧
      (∀ (j : Nat) (h : j < bytes.length), t.memRead (0x200 + j) = bytes[j]) ∧
      ∀ a, a < 0x200 ∨ 0x200 + bytes.length ≤ a → t.memRead a = s.memRead a) ∧
    (s.cfg.memSize - 0x200 < bytes.length →
      transact (.loadProgram bytes) s = (.loadError (.loadOverflow bytes.length), s))

/-- R210, C8: after a fetch error every later step raises the same error until the host performs Init, whatever other
transactions come between. -/
def Obligations.FetchErrorLastsUntilInit : Prop :=
  ∀ (s : State) (f : Fault) (xs : List Transaction), s.fetch = .error f → (∀ c, Transaction.init c ∉ xs) →
    step (runAll xs s) = .fault f
end

