-- ==== Sys2Proof/Laws/Decode.lean ====
section
/-! SUPPORT. The fields of the three word layouts (spec/30_encoding.md R74): each field of an assembled word is the
field it was assembled from, and a word is assembled from its fields. -/

namespace Sys2Proof

@[simp] theorem fieldClass_wordNNN (c : BitVec 4) (nnn : Addr) : fieldClass (wordNNN c nnn) = c := by
  apply BitVec.eq_of_getLsbD_eq
  intro k hk
  simp only [fieldClass, wordNNN, BitVec.getLsbD_extractLsb', BitVec.getLsbD_append]
  interval_cases k <;> simp

@[simp] theorem fieldNNN_wordNNN (c : BitVec 4) (nnn : Addr) : fieldNNN (wordNNN c nnn) = nnn := by
  apply BitVec.eq_of_getLsbD_eq
  intro k hk
  simp only [fieldNNN, wordNNN, BitVec.getLsbD_extractLsb', BitVec.getLsbD_append]
  interval_cases k <;> simp

@[simp] theorem fieldClass_wordXNN (c : BitVec 4) (x : RegIx) (nn : Byte) : fieldClass (wordXNN c x nn) = c := by
  apply BitVec.eq_of_getLsbD_eq
  intro k hk
  simp only [fieldClass, wordXNN, BitVec.getLsbD_extractLsb', BitVec.getLsbD_append]
  interval_cases k <;> simp

@[simp] theorem fieldX_wordXNN (c : BitVec 4) (x : RegIx) (nn : Byte) : fieldX (wordXNN c x nn) = x := by
  apply BitVec.eq_of_getLsbD_eq
  intro k hk
  simp only [fieldX, wordXNN, BitVec.getLsbD_extractLsb', BitVec.getLsbD_append]
  interval_cases k <;> simp

@[simp] theorem fieldNN_wordXNN (c : BitVec 4) (x : RegIx) (nn : Byte) : fieldNN (wordXNN c x nn) = nn := by
  apply BitVec.eq_of_getLsbD_eq
  intro k hk
  simp only [fieldNN, wordXNN, BitVec.getLsbD_extractLsb', BitVec.getLsbD_append]
  interval_cases k <;> simp

@[simp] theorem fieldClass_wordXYN (c : BitVec 4) (x y : RegIx) (n : Nibble) : fieldClass (wordXYN c x y n) = c := by
  apply BitVec.eq_of_getLsbD_eq
  intro k hk
  simp only [fieldClass, wordXYN, BitVec.getLsbD_extractLsb', BitVec.getLsbD_append]
  interval_cases k <;> simp

@[simp] theorem fieldX_wordXYN (c : BitVec 4) (x y : RegIx) (n : Nibble) : fieldX (wordXYN c x y n) = x := by
  apply BitVec.eq_of_getLsbD_eq
  intro k hk
  simp only [fieldX, wordXYN, BitVec.getLsbD_extractLsb', BitVec.getLsbD_append]
  interval_cases k <;> simp

@[simp] theorem fieldY_wordXYN (c : BitVec 4) (x y : RegIx) (n : Nibble) : fieldY (wordXYN c x y n) = y := by
  apply BitVec.eq_of_getLsbD_eq
  intro k hk
  simp only [fieldY, wordXYN, BitVec.getLsbD_extractLsb', BitVec.getLsbD_append]
  interval_cases k <;> simp

@[simp] theorem fieldN_wordXYN (c : BitVec 4) (x y : RegIx) (n : Nibble) : fieldN (wordXYN c x y n) = n := by
  apply BitVec.eq_of_getLsbD_eq
  intro k hk
  simp only [fieldN, wordXYN, BitVec.getLsbD_extractLsb', BitVec.getLsbD_append]
  interval_cases k <;> simp

@[simp] theorem fieldNN_wordXYN (c : BitVec 4) (x y : RegIx) (n : Nibble) : fieldNN (wordXYN c x y n) = y ++ n := by
  apply BitVec.eq_of_getLsbD_eq
  intro k hk
  simp only [fieldNN, wordXYN, BitVec.getLsbD_extractLsb', BitVec.getLsbD_append]
  interval_cases k <;> simp

/-- A word is its class and its NNN fields. -/
theorem wordNNN_fields (w : Word) : wordNNN (fieldClass w) (fieldNNN w) = w := by
  apply BitVec.eq_of_getLsbD_eq
  intro k hk
  simp only [fieldClass, fieldNNN, wordNNN, BitVec.getLsbD_extractLsb', BitVec.getLsbD_append]
  interval_cases k <;> simp

/-- A word is its class and its XNN fields. -/
theorem wordXNN_fields (w : Word) : wordXNN (fieldClass w) (fieldX w) (fieldNN w) = w := by
  apply BitVec.eq_of_getLsbD_eq
  intro k hk
  simp only [fieldClass, fieldX, fieldNN, wordXNN, BitVec.getLsbD_extractLsb', BitVec.getLsbD_append]
  interval_cases k <;> simp

/-- A word is its class and its XYN fields. -/
theorem wordXYN_fields (w : Word) : wordXYN (fieldClass w) (fieldX w) (fieldY w) (fieldN w) = w := by
  apply BitVec.eq_of_getLsbD_eq
  intro k hk
  simp only [fieldClass, fieldX, fieldY, fieldN, wordXYN, BitVec.getLsbD_extractLsb', BitVec.getLsbD_append]
  interval_cases k <;> simp

/-- The bytes of a word give the word back (R55). -/
@[simp] theorem wordOfBytes_high_low (w : Word) : wordOfBytes (highByte w) (lowByte w) = w := by
  apply BitVec.eq_of_getLsbD_eq
  intro k hk
  simp only [wordOfBytes, highByte, lowByte, BitVec.getLsbD_extractLsb', BitVec.getLsbD_append]
  interval_cases k <;> simp

/-- Two words laid out alike under a mask: field by field. -/
theorem and_append_eq {n m : Nat} (a : BitVec n) (b : BitVec m) (w v : BitVec (n + m)) :
    (a ++ b) &&& w = v ↔ a &&& w.extractLsb' m n = v.extractLsb' m n ∧ b &&& w.extractLsb' 0 m = v.extractLsb' 0 m := by
  have split (u : BitVec (n + m)) : u = u.extractLsb' m n ++ u.extractLsb' 0 m :=
    (BitVec.extractLsb'_append_extractLsb' ).symm
  constructor
  · rintro rfl
    constructor
    · apply BitVec.eq_of_getLsbD_eq
      intro k hk
      simp [BitVec.getLsbD_append, hk]
    · apply BitVec.eq_of_getLsbD_eq
      intro k hk
      simp [BitVec.getLsbD_append, hk]
  · rintro ⟨h1, h2⟩
    rw [split v, ← h1, ← h2]
    conv_lhs => rw [split w]
    exact BitVec.and_append

/-- A row covers a word NNN exactly when its fixed bits agree field by field. -/
theorem OpcodeRow.covers_wordNNN (r : OpcodeRow) (c : BitVec 4) (nnn : Addr) :
    r.covers (wordNNN c nnn) = true ↔ c &&& fieldClass r.mask = fieldClass r.value ∧
      nnn &&& fieldNNN r.mask = fieldNNN r.value := by
  rw [OpcodeRow.covers, beq_iff_eq, wordNNN]
  exact and_append_eq c nnn r.mask r.value

/-- The top byte of a word is its class and its X field. -/
theorem topByte_eq (u : Word) : u.extractLsb' 8 (4 + 4) = fieldClass u ++ fieldX u := by
  apply BitVec.eq_of_getLsbD_eq
  intro k hk
  simp only [fieldClass, fieldX, BitVec.getLsbD_extractLsb', BitVec.getLsbD_append]
  interval_cases k <;> simp

theorem append_eq_append {n m : Nat} (a a' : BitVec n) (b b' : BitVec m) : a ++ b = a' ++ b' ↔ a = a' ∧ b = b' := by
  constructor
  · intro h
    have h1 := congrArg (BitVec.extractLsb' m n) h
    have h2 := congrArg (BitVec.extractLsb' 0 m) h
    rw [BitVec.extractLsb'_append_eq_left, BitVec.extractLsb'_append_eq_left] at h1
    rw [BitVec.extractLsb'_append_eq_right, BitVec.extractLsb'_append_eq_right] at h2
    exact ⟨h1, h2⟩
  · rintro ⟨rfl, rfl⟩; rfl

/-- A row covers a word XNN exactly when its fixed bits agree field by field. -/
theorem OpcodeRow.covers_wordXNN (r : OpcodeRow) (c : BitVec 4) (x : RegIx) (nn : Byte) :
    r.covers (wordXNN c x nn) = true ↔ c &&& fieldClass r.mask = fieldClass r.value ∧
      x &&& fieldX r.mask = fieldX r.value ∧ nn &&& fieldNN r.mask = fieldNN r.value := by
  rw [OpcodeRow.covers, beq_iff_eq, wordXNN]
  refine (and_append_eq (c ++ x) nn r.mask r.value).trans ?_
  rw [topByte_eq, topByte_eq, BitVec.and_append, append_eq_append, and_assoc]
  rfl

/-- The low byte of a word is its Y field and its N field. -/
theorem fieldNN_eq (u : Word) : fieldNN u = fieldY u ++ fieldN u := by
  apply BitVec.eq_of_getLsbD_eq
  intro k hk
  simp only [fieldNN, fieldY, fieldN, BitVec.getLsbD_extractLsb', BitVec.getLsbD_append]
  interval_cases k <;> simp

theorem wordXYN_eq (c : BitVec 4) (x y : RegIx) (n : Nibble) : wordXYN c x y n = wordXNN c x (y ++ n) := by
  rw [← wordXNN_fields (wordXYN c x y n)]
  simp

/-- A row covers a word XYN exactly when its fixed bits agree field by field. -/
theorem OpcodeRow.covers_wordXYN (r : OpcodeRow) (c : BitVec 4) (x y : RegIx) (n : Nibble) :
    r.covers (wordXYN c x y n) = true ↔ c &&& fieldClass r.mask = fieldClass r.value ∧
      x &&& fieldX r.mask = fieldX r.value ∧ y &&& fieldY r.mask = fieldY r.value ∧
      n &&& fieldN r.mask = fieldN r.value := by
  rw [wordXYN_eq, OpcodeRow.covers_wordXNN, fieldNN_eq r.mask, fieldNN_eq r.value, BitVec.and_append,
    append_eq_append]

end Sys2Proof
end

