-- ==== Sys2Proof/Laws/State.lean ====
section
/-! SUPPORT. What each update of the state does to each field, so that no proof unfolds a record update; and the
reads of registers, keys and memory through the updates. -/

namespace Sys2Proof.Machine

variable (s : State)

/-! ### setV -/

@[simp] theorem State.setV_v (x : RegIx) (b : Byte) : (s.setV x b).v = s.v.set x.toNat b x.isLt := rfl
@[simp] theorem State.setV_i (x : RegIx) (b : Byte) : (s.setV x b).i = s.i := rfl
@[simp] theorem State.setV_pc (x : RegIx) (b : Byte) : (s.setV x b).pc = s.pc := rfl
@[simp] theorem State.setV_stack (x : RegIx) (b : Byte) : (s.setV x b).stack = s.stack := rfl
@[simp] theorem State.setV_dt (x : RegIx) (b : Byte) : (s.setV x b).dt = s.dt := rfl
@[simp] theorem State.setV_st (x : RegIx) (b : Byte) : (s.setV x b).st = s.st := rfl
@[simp] theorem State.setV_fb (x : RegIx) (b : Byte) : (s.setV x b).fb = s.fb := rfl
@[simp] theorem State.setV_key (x : RegIx) (b : Byte) : (s.setV x b).key = s.key := rfl
@[simp] theorem State.setV_mem (x : RegIx) (b : Byte) : (s.setV x b).mem = s.mem := rfl
@[simp] theorem State.setV_cfg (x : RegIx) (b : Byte) : (s.setV x b).cfg = s.cfg := rfl
@[simp] theorem State.setV_draws (x : RegIx) (b : Byte) : (s.setV x b).draws = s.draws := rfl
@[simp] theorem State.setV_redraw (x : RegIx) (b : Byte) : (s.setV x b).redraw = s.redraw := rfl
@[simp] theorem State.setV_unknownWord (x : RegIx) (b : Byte) : (s.setV x b).unknownWord = s.unknownWord := rfl
@[simp] theorem State.setV_memRead (x : RegIx) (b : Byte) (p : Nat) : (s.setV x b).memRead p = s.memRead p := rfl
@[simp] theorem State.setV_keyHeld (x : RegIx) (b : Byte) (q : BitVec 4) : (s.setV x b).keyHeld q = s.keyHeld q := rfl

/-! ### setI -/

@[simp] theorem State.setI_v (w : Word) : (s.setI w).v = s.v := rfl
@[simp] theorem State.setI_i (w : Word) : (s.setI w).i = w := rfl
@[simp] theorem State.setI_pc (w : Word) : (s.setI w).pc = s.pc := rfl
@[simp] theorem State.setI_stack (w : Word) : (s.setI w).stack = s.stack := rfl
@[simp] theorem State.setI_dt (w : Word) : (s.setI w).dt = s.dt := rfl
@[simp] theorem State.setI_st (w : Word) : (s.setI w).st = s.st := rfl
@[simp] theorem State.setI_fb (w : Word) : (s.setI w).fb = s.fb := rfl
@[simp] theorem State.setI_key (w : Word) : (s.setI w).key = s.key := rfl
@[simp] theorem State.setI_mem (w : Word) : (s.setI w).mem = s.mem := rfl
@[simp] theorem State.setI_cfg (w : Word) : (s.setI w).cfg = s.cfg := rfl
@[simp] theorem State.setI_draws (w : Word) : (s.setI w).draws = s.draws := rfl
@[simp] theorem State.setI_redraw (w : Word) : (s.setI w).redraw = s.redraw := rfl
@[simp] theorem State.setI_unknownWord (w : Word) : (s.setI w).unknownWord = s.unknownWord := rfl
@[simp] theorem State.setI_getV (w : Word) (r : RegIx) : (s.setI w).getV r = s.getV r := rfl
@[simp] theorem State.setI_memRead (w : Word) (p : Nat) : (s.setI w).memRead p = s.memRead p := rfl
@[simp] theorem State.setI_keyHeld (w : Word) (q : BitVec 4) : (s.setI w).keyHeld q = s.keyHeld q := rfl

/-! ### setPc -/

@[simp] theorem State.setPc_v (w : Word) : (s.setPc w).v = s.v := rfl
@[simp] theorem State.setPc_i (w : Word) : (s.setPc w).i = s.i := rfl
@[simp] theorem State.setPc_pc (w : Word) : (s.setPc w).pc = w := rfl
@[simp] theorem State.setPc_stack (w : Word) : (s.setPc w).stack = s.stack := rfl
@[simp] theorem State.setPc_dt (w : Word) : (s.setPc w).dt = s.dt := rfl
@[simp] theorem State.setPc_st (w : Word) : (s.setPc w).st = s.st := rfl
@[simp] theorem State.setPc_fb (w : Word) : (s.setPc w).fb = s.fb := rfl
@[simp] theorem State.setPc_key (w : Word) : (s.setPc w).key = s.key := rfl
@[simp] theorem State.setPc_mem (w : Word) : (s.setPc w).mem = s.mem := rfl
@[simp] theorem State.setPc_cfg (w : Word) : (s.setPc w).cfg = s.cfg := rfl
@[simp] theorem State.setPc_draws (w : Word) : (s.setPc w).draws = s.draws := rfl
@[simp] theorem State.setPc_redraw (w : Word) : (s.setPc w).redraw = s.redraw := rfl
@[simp] theorem State.setPc_unknownWord (w : Word) : (s.setPc w).unknownWord = s.unknownWord := rfl
@[simp] theorem State.setPc_getV (w : Word) (r : RegIx) : (s.setPc w).getV r = s.getV r := rfl
@[simp] theorem State.setPc_memRead (w : Word) (p : Nat) : (s.setPc w).memRead p = s.memRead p := rfl
@[simp] theorem State.setPc_keyHeld (w : Word) (q : BitVec 4) : (s.setPc w).keyHeld q = s.keyHeld q := rfl

/-! ### setDt -/

@[simp] theorem State.setDt_v (b : Byte) : (s.setDt b).v = s.v := rfl
@[simp] theorem State.setDt_i (b : Byte) : (s.setDt b).i = s.i := rfl
@[simp] theorem State.setDt_pc (b : Byte) : (s.setDt b).pc = s.pc := rfl
@[simp] theorem State.setDt_stack (b : Byte) : (s.setDt b).stack = s.stack := rfl
@[simp] theorem State.setDt_dt (b : Byte) : (s.setDt b).dt = b := rfl
@[simp] theorem State.setDt_st (b : Byte) : (s.setDt b).st = s.st := rfl
@[simp] theorem State.setDt_fb (b : Byte) : (s.setDt b).fb = s.fb := rfl
@[simp] theorem State.setDt_key (b : Byte) : (s.setDt b).key = s.key := rfl
@[simp] theorem State.setDt_mem (b : Byte) : (s.setDt b).mem = s.mem := rfl
@[simp] theorem State.setDt_cfg (b : Byte) : (s.setDt b).cfg = s.cfg := rfl
@[simp] theorem State.setDt_draws (b : Byte) : (s.setDt b).draws = s.draws := rfl
@[simp] theorem State.setDt_redraw (b : Byte) : (s.setDt b).redraw = s.redraw := rfl
@[simp] theorem State.setDt_unknownWord (b : Byte) : (s.setDt b).unknownWord = s.unknownWord := rfl
@[simp] theorem State.setDt_getV (b : Byte) (r : RegIx) : (s.setDt b).getV r = s.getV r := rfl
@[simp] theorem State.setDt_memRead (b : Byte) (p : Nat) : (s.setDt b).memRead p = s.memRead p := rfl
@[simp] theorem State.setDt_keyHeld (b : Byte) (q : BitVec 4) : (s.setDt b).keyHeld q = s.keyHeld q := rfl

/-! ### setSt -/

@[simp] theorem State.setSt_v (b : Byte) : (s.setSt b).v = s.v := rfl
@[simp] theorem State.setSt_i (b : Byte) : (s.setSt b).i = s.i := rfl
@[simp] theorem State.setSt_pc (b : Byte) : (s.setSt b).pc = s.pc := rfl
@[simp] theorem State.setSt_stack (b : Byte) : (s.setSt b).stack = s.stack := rfl
@[simp] theorem State.setSt_dt (b : Byte) : (s.setSt b).dt = s.dt := rfl
@[simp] theorem State.setSt_st (b : Byte) : (s.setSt b).st = b := rfl
@[simp] theorem State.setSt_fb (b : Byte) : (s.setSt b).fb = s.fb := rfl
@[simp] theorem State.setSt_key (b : Byte) : (s.setSt b).key = s.key := rfl
@[simp] theorem State.setSt_mem (b : Byte) : (s.setSt b).mem = s.mem := rfl
@[simp] theorem State.setSt_cfg (b : Byte) : (s.setSt b).cfg = s.cfg := rfl
@[simp] theorem State.setSt_draws (b : Byte) : (s.setSt b).draws = s.draws := rfl
@[simp] theorem State.setSt_redraw (b : Byte) : (s.setSt b).redraw = s.redraw := rfl
@[simp] theorem State.setSt_unknownWord (b : Byte) : (s.setSt b).unknownWord = s.unknownWord := rfl
@[simp] theorem State.setSt_getV (b : Byte) (r : RegIx) : (s.setSt b).getV r = s.getV r := rfl
@[simp] theorem State.setSt_memRead (b : Byte) (p : Nat) : (s.setSt b).memRead p = s.memRead p := rfl
@[simp] theorem State.setSt_keyHeld (b : Byte) (q : BitVec 4) : (s.setSt b).keyHeld q = s.keyHeld q := rfl

/-! ### skip -/

@[simp] theorem State.skip_v : (s.skip).v = s.v := rfl
@[simp] theorem State.skip_i : (s.skip).i = s.i := rfl
@[simp] theorem State.skip_pc : (s.skip).pc = s.pc + 2 := rfl
@[simp] theorem State.skip_stack : (s.skip).stack = s.stack := rfl
@[simp] theorem State.skip_dt : (s.skip).dt = s.dt := rfl
@[simp] theorem State.skip_st : (s.skip).st = s.st := rfl
@[simp] theorem State.skip_fb : (s.skip).fb = s.fb := rfl
@[simp] theorem State.skip_key : (s.skip).key = s.key := rfl
@[simp] theorem State.skip_mem : (s.skip).mem = s.mem := rfl
@[simp] theorem State.skip_cfg : (s.skip).cfg = s.cfg := rfl
@[simp] theorem State.skip_draws : (s.skip).draws = s.draws := rfl
@[simp] theorem State.skip_redraw : (s.skip).redraw = s.redraw := rfl
@[simp] theorem State.skip_unknownWord : (s.skip).unknownWord = s.unknownWord := rfl
@[simp] theorem State.skip_getV (r : RegIx) : (s.skip).getV r = s.getV r := rfl
@[simp] theorem State.skip_memRead (p : Nat) : (s.skip).memRead p = s.memRead p := rfl
@[simp] theorem State.skip_keyHeld (q : BitVec 4) : (s.skip).keyHeld q = s.keyHeld q := rfl

/-! ### memWrite -/

@[simp] theorem State.memWrite_v (a : Nat) (b : Byte) : (s.memWrite a b).v = s.v := rfl
@[simp] theorem State.memWrite_i (a : Nat) (b : Byte) : (s.memWrite a b).i = s.i := rfl
@[simp] theorem State.memWrite_pc (a : Nat) (b : Byte) : (s.memWrite a b).pc = s.pc := rfl
@[simp] theorem State.memWrite_stack (a : Nat) (b : Byte) : (s.memWrite a b).stack = s.stack := rfl
@[simp] theorem State.memWrite_dt (a : Nat) (b : Byte) : (s.memWrite a b).dt = s.dt := rfl
@[simp] theorem State.memWrite_st (a : Nat) (b : Byte) : (s.memWrite a b).st = s.st := rfl
@[simp] theorem State.memWrite_fb (a : Nat) (b : Byte) : (s.memWrite a b).fb = s.fb := rfl
@[simp] theorem State.memWrite_key (a : Nat) (b : Byte) : (s.memWrite a b).key = s.key := rfl
@[simp] theorem State.memWrite_mem (a : Nat) (b : Byte) : (s.memWrite a b).mem = Memory.write s.cfg s.mem a b := rfl
@[simp] theorem State.memWrite_cfg (a : Nat) (b : Byte) : (s.memWrite a b).cfg = s.cfg := rfl
@[simp] theorem State.memWrite_draws (a : Nat) (b : Byte) : (s.memWrite a b).draws = s.draws := rfl
@[simp] theorem State.memWrite_redraw (a : Nat) (b : Byte) : (s.memWrite a b).redraw = s.redraw := rfl
@[simp] theorem State.memWrite_unknownWord (a : Nat) (b : Byte) : (s.memWrite a b).unknownWord = s.unknownWord := rfl
@[simp] theorem State.memWrite_getV (a : Nat) (b : Byte) (r : RegIx) : (s.memWrite a b).getV r = s.getV r := rfl
@[simp] theorem State.memWrite_keyHeld (a : Nat) (b : Byte) (q : BitVec 4) : (s.memWrite a b).keyHeld q = s.keyHeld q := rfl

/-! ### clearOutputs -/

@[simp] theorem State.clearOutputs_v : (s.clearOutputs).v = s.v := rfl
@[simp] theorem State.clearOutputs_i : (s.clearOutputs).i = s.i := rfl
@[simp] theorem State.clearOutputs_pc : (s.clearOutputs).pc = s.pc := rfl
@[simp] theorem State.clearOutputs_stack : (s.clearOutputs).stack = s.stack := rfl
@[simp] theorem State.clearOutputs_dt : (s.clearOutputs).dt = s.dt := rfl
@[simp] theorem State.clearOutputs_st : (s.clearOutputs).st = s.st := rfl
@[simp] theorem State.clearOutputs_fb : (s.clearOutputs).fb = s.fb := rfl
@[simp] theorem State.clearOutputs_key : (s.clearOutputs).key = s.key := rfl
@[simp] theorem State.clearOutputs_mem : (s.clearOutputs).mem = s.mem := rfl
@[simp] theorem State.clearOutputs_cfg : (s.clearOutputs).cfg = s.cfg := rfl
@[simp] theorem State.clearOutputs_draws : (s.clearOutputs).draws = s.draws := rfl
@[simp] theorem State.clearOutputs_redraw : (s.clearOutputs).redraw = false := rfl
@[simp] theorem State.clearOutputs_unknownWord : (s.clearOutputs).unknownWord = none := rfl
@[simp] theorem State.clearOutputs_getV (r : RegIx) : (s.clearOutputs).getV r = s.getV r := rfl
@[simp] theorem State.clearOutputs_memRead (p : Nat) : (s.clearOutputs).memRead p = s.memRead p := rfl
@[simp] theorem State.clearOutputs_keyHeld (q : BitVec 4) : (s.clearOutputs).keyHeld q = s.keyHeld q := rfl

/-! ### advance -/

@[simp] theorem State.advance_v : (s.advance).v = s.v := rfl
@[simp] theorem State.advance_i : (s.advance).i = s.i := rfl
@[simp] theorem State.advance_pc : (s.advance).pc = s.pc + 2 := rfl
@[simp] theorem State.advance_stack : (s.advance).stack = s.stack := rfl
@[simp] theorem State.advance_dt : (s.advance).dt = s.dt := rfl
@[simp] theorem State.advance_st : (s.advance).st = s.st := rfl
@[simp] theorem State.advance_fb : (s.advance).fb = s.fb := rfl
@[simp] theorem State.advance_key : (s.advance).key = s.key := rfl
@[simp] theorem State.advance_mem : (s.advance).mem = s.mem := rfl
@[simp] theorem State.advance_cfg : (s.advance).cfg = s.cfg := rfl
@[simp] theorem State.advance_draws : (s.advance).draws = s.draws := rfl
@[simp] theorem State.advance_redraw : (s.advance).redraw = false := rfl
@[simp] theorem State.advance_unknownWord : (s.advance).unknownWord = none := rfl
@[simp] theorem State.advance_getV (r : RegIx) : (s.advance).getV r = s.getV r := rfl
@[simp] theorem State.advance_memRead (p : Nat) : (s.advance).memRead p = s.memRead p := rfl
@[simp] theorem State.advance_keyHeld (q : BitVec 4) : (s.advance).keyHeld q = s.keyHeld q := rfl

/-! ### setKeys -/

@[simp] theorem State.setKeys_v (k : Vector Bool 16) : (s.setKeys k).v = s.v := rfl
@[simp] theorem State.setKeys_i (k : Vector Bool 16) : (s.setKeys k).i = s.i := rfl
@[simp] theorem State.setKeys_pc (k : Vector Bool 16) : (s.setKeys k).pc = s.pc := rfl
@[simp] theorem State.setKeys_stack (k : Vector Bool 16) : (s.setKeys k).stack = s.stack := rfl
@[simp] theorem State.setKeys_dt (k : Vector Bool 16) : (s.setKeys k).dt = s.dt := rfl
@[simp] theorem State.setKeys_st (k : Vector Bool 16) : (s.setKeys k).st = s.st := rfl
@[simp] theorem State.setKeys_fb (k : Vector Bool 16) : (s.setKeys k).fb = s.fb := rfl
@[simp] theorem State.setKeys_key (k : Vector Bool 16) : (s.setKeys k).key = k := rfl
@[simp] theorem State.setKeys_mem (k : Vector Bool 16) : (s.setKeys k).mem = s.mem := rfl
@[simp] theorem State.setKeys_cfg (k : Vector Bool 16) : (s.setKeys k).cfg = s.cfg := rfl
@[simp] theorem State.setKeys_draws (k : Vector Bool 16) : (s.setKeys k).draws = s.draws := rfl
@[simp] theorem State.setKeys_redraw (k : Vector Bool 16) : (s.setKeys k).redraw = s.redraw := rfl
@[simp] theorem State.setKeys_unknownWord (k : Vector Bool 16) : (s.setKeys k).unknownWord = s.unknownWord := rfl
@[simp] theorem State.setKeys_getV (k : Vector Bool 16) (r : RegIx) : (s.setKeys k).getV r = s.getV r := rfl
@[simp] theorem State.setKeys_memRead (k : Vector Bool 16) (p : Nat) : (s.setKeys k).memRead p = s.memRead p := rfl

/-! ### tickDelay -/

@[simp] theorem State.tickDelay_v : (s.tickDelay).v = s.v := rfl
@[simp] theorem State.tickDelay_i : (s.tickDelay).i = s.i := rfl
@[simp] theorem State.tickDelay_pc : (s.tickDelay).pc = s.pc := rfl
@[simp] theorem State.tickDelay_stack : (s.tickDelay).stack = s.stack := rfl
@[simp] theorem State.tickDelay_dt : (s.tickDelay).dt = countDown s.dt := rfl
@[simp] theorem State.tickDelay_st : (s.tickDelay).st = s.st := rfl
@[simp] theorem State.tickDelay_fb : (s.tickDelay).fb = s.fb := rfl
@[simp] theorem State.tickDelay_key : (s.tickDelay).key = s.key := rfl
@[simp] theorem State.tickDelay_mem : (s.tickDelay).mem = s.mem := rfl
@[simp] theorem State.tickDelay_cfg : (s.tickDelay).cfg = s.cfg := rfl
@[simp] theorem State.tickDelay_draws : (s.tickDelay).draws = s.draws := rfl
@[simp] theorem State.tickDelay_redraw : (s.tickDelay).redraw = s.redraw := rfl
@[simp] theorem State.tickDelay_unknownWord : (s.tickDelay).unknownWord = s.unknownWord := rfl
@[simp] theorem State.tickDelay_getV (r : RegIx) : (s.tickDelay).getV r = s.getV r := rfl
@[simp] theorem State.tickDelay_memRead (p : Nat) : (s.tickDelay).memRead p = s.memRead p := rfl
@[simp] theorem State.tickDelay_keyHeld (q : BitVec 4) : (s.tickDelay).keyHeld q = s.keyHeld q := rfl

/-! ### tickSound -/

@[simp] theorem State.tickSound_v : (s.tickSound).v = s.v := rfl
@[simp] theorem State.tickSound_i : (s.tickSound).i = s.i := rfl
@[simp] theorem State.tickSound_pc : (s.tickSound).pc = s.pc := rfl
@[simp] theorem State.tickSound_stack : (s.tickSound).stack = s.stack := rfl
@[simp] theorem State.tickSound_dt : (s.tickSound).dt = s.dt := rfl
@[simp] theorem State.tickSound_st : (s.tickSound).st = countDown s.st := rfl
@[simp] theorem State.tickSound_fb : (s.tickSound).fb = s.fb := rfl
@[simp] theorem State.tickSound_key : (s.tickSound).key = s.key := rfl
@[simp] theorem State.tickSound_mem : (s.tickSound).mem = s.mem := rfl
@[simp] theorem State.tickSound_cfg : (s.tickSound).cfg = s.cfg := rfl
@[simp] theorem State.tickSound_draws : (s.tickSound).draws = s.draws := rfl
@[simp] theorem State.tickSound_redraw : (s.tickSound).redraw = s.redraw := rfl
@[simp] theorem State.tickSound_unknownWord : (s.tickSound).unknownWord = s.unknownWord := rfl
@[simp] theorem State.tickSound_getV (r : RegIx) : (s.tickSound).getV r = s.getV r := rfl
@[simp] theorem State.tickSound_memRead (p : Nat) : (s.tickSound).memRead p = s.memRead p := rfl
@[simp] theorem State.tickSound_keyHeld (q : BitVec 4) : (s.tickSound).keyHeld q = s.keyHeld q := rfl

/-! ### setFlag -/

@[simp] theorem State.setFlag_v (f : Bool) : (s.setFlag f).v = s.v.set 15 (flagByte f) := rfl
@[simp] theorem State.setFlag_i (f : Bool) : (s.setFlag f).i = s.i := rfl
@[simp] theorem State.setFlag_pc (f : Bool) : (s.setFlag f).pc = s.pc := rfl
@[simp] theorem State.setFlag_stack (f : Bool) : (s.setFlag f).stack = s.stack := rfl
@[simp] theorem State.setFlag_dt (f : Bool) : (s.setFlag f).dt = s.dt := rfl
@[simp] theorem State.setFlag_st (f : Bool) : (s.setFlag f).st = s.st := rfl
@[simp] theorem State.setFlag_fb (f : Bool) : (s.setFlag f).fb = s.fb := rfl
@[simp] theorem State.setFlag_key (f : Bool) : (s.setFlag f).key = s.key := rfl
@[simp] theorem State.setFlag_mem (f : Bool) : (s.setFlag f).mem = s.mem := rfl
@[simp] theorem State.setFlag_cfg (f : Bool) : (s.setFlag f).cfg = s.cfg := rfl
@[simp] theorem State.setFlag_draws (f : Bool) : (s.setFlag f).draws = s.draws := rfl
@[simp] theorem State.setFlag_redraw (f : Bool) : (s.setFlag f).redraw = s.redraw := rfl
@[simp] theorem State.setFlag_unknownWord (f : Bool) : (s.setFlag f).unknownWord = s.unknownWord := rfl
@[simp] theorem State.setFlag_memRead (f : Bool) (p : Nat) : (s.setFlag f).memRead p = s.memRead p := rfl
@[simp] theorem State.setFlag_keyHeld (f : Bool) (q : BitVec 4) : (s.setFlag f).keyHeld q = s.keyHeld q := rfl

/-! ### setResult -/

@[simp] theorem State.setResult_v (x : RegIx) (b : Byte) (f : Bool) : (s.setResult x b f).v = (s.v.set x.toNat b x.isLt).set 15 (flagByte f) := rfl
@[simp] theorem State.setResult_i (x : RegIx) (b : Byte) (f : Bool) : (s.setResult x b f).i = s.i := rfl
@[simp] theorem State.setResult_pc (x : RegIx) (b : Byte) (f : Bool) : (s.setResult x b f).pc = s.pc := rfl
@[simp] theorem State.setResult_stack (x : RegIx) (b : Byte) (f : Bool) : (s.setResult x b f).stack = s.stack := rfl
@[simp] theorem State.setResult_dt (x : RegIx) (b : Byte) (f : Bool) : (s.setResult x b f).dt = s.dt := rfl
@[simp] theorem State.setResult_st (x : RegIx) (b : Byte) (f : Bool) : (s.setResult x b f).st = s.st := rfl
@[simp] theorem State.setResult_fb (x : RegIx) (b : Byte) (f : Bool) : (s.setResult x b f).fb = s.fb := rfl
@[simp] theorem State.setResult_key (x : RegIx) (b : Byte) (f : Bool) : (s.setResult x b f).key = s.key := rfl
@[simp] theorem State.setResult_mem (x : RegIx) (b : Byte) (f : Bool) : (s.setResult x b f).mem = s.mem := rfl
@[simp] theorem State.setResult_cfg (x : RegIx) (b : Byte) (f : Bool) : (s.setResult x b f).cfg = s.cfg := rfl
@[simp] theorem State.setResult_draws (x : RegIx) (b : Byte) (f : Bool) : (s.setResult x b f).draws = s.draws := rfl
@[simp] theorem State.setResult_redraw (x : RegIx) (b : Byte) (f : Bool) : (s.setResult x b f).redraw = s.redraw := rfl
@[simp] theorem State.setResult_unknownWord (x : RegIx) (b : Byte) (f : Bool) : (s.setResult x b f).unknownWord = s.unknownWord := rfl

/-! ### showDrawing -/

@[simp] theorem State.showDrawing_v (d : Drawing) : (s.showDrawing d).v = s.v.set 15 (flagByte d.collided) := rfl
@[simp] theorem State.showDrawing_i (d : Drawing) : (s.showDrawing d).i = s.i := rfl
@[simp] theorem State.showDrawing_pc (d : Drawing) : (s.showDrawing d).pc = s.pc := rfl
@[simp] theorem State.showDrawing_stack (d : Drawing) : (s.showDrawing d).stack = s.stack := rfl
@[simp] theorem State.showDrawing_dt (d : Drawing) : (s.showDrawing d).dt = s.dt := rfl
@[simp] theorem State.showDrawing_st (d : Drawing) : (s.showDrawing d).st = s.st := rfl
@[simp] theorem State.showDrawing_fb (d : Drawing) : (s.showDrawing d).fb = d.fb := rfl
@[simp] theorem State.showDrawing_key (d : Drawing) : (s.showDrawing d).key = s.key := rfl
@[simp] theorem State.showDrawing_mem (d : Drawing) : (s.showDrawing d).mem = s.mem := rfl
@[simp] theorem State.showDrawing_cfg (d : Drawing) : (s.showDrawing d).cfg = s.cfg := rfl
@[simp] theorem State.showDrawing_draws (d : Drawing) : (s.showDrawing d).draws = s.draws := rfl
@[simp] theorem State.showDrawing_redraw (d : Drawing) : (s.showDrawing d).redraw = true := rfl
@[simp] theorem State.showDrawing_unknownWord (d : Drawing) : (s.showDrawing d).unknownWord = s.unknownWord := rfl

/-! ### drawByte -/

@[simp] theorem State.drawByte_v : (s.drawByte.2).v = s.v := rfl
@[simp] theorem State.drawByte_i : (s.drawByte.2).i = s.i := rfl
@[simp] theorem State.drawByte_pc : (s.drawByte.2).pc = s.pc := rfl
@[simp] theorem State.drawByte_stack : (s.drawByte.2).stack = s.stack := rfl
@[simp] theorem State.drawByte_dt : (s.drawByte.2).dt = s.dt := rfl
@[simp] theorem State.drawByte_st : (s.drawByte.2).st = s.st := rfl
@[simp] theorem State.drawByte_fb : (s.drawByte.2).fb = s.fb := rfl
@[simp] theorem State.drawByte_key : (s.drawByte.2).key = s.key := rfl
@[simp] theorem State.drawByte_mem : (s.drawByte.2).mem = s.mem := rfl
@[simp] theorem State.drawByte_cfg : (s.drawByte.2).cfg = s.cfg := rfl
@[simp] theorem State.drawByte_draws : (s.drawByte.2).draws = s.draws + 1 := rfl
@[simp] theorem State.drawByte_redraw : (s.drawByte.2).redraw = s.redraw := rfl
@[simp] theorem State.drawByte_unknownWord : (s.drawByte.2).unknownWord = s.unknownWord := rfl

/-! ### Register reads after register writes -/

/-- A register reads as the last value written to it, and a write leaves every other register alone (R20). -/
theorem State.getV_setV (x r : RegIx) (b : Byte) : (s.setV x b).getV r = if r = x then b else s.getV r := by
  simp only [State.getV, State.setV, Vector.getElem_set, BitVec.toNat_inj]
  simp only [eq_comm]

@[simp] theorem State.getV_setV_same (x : RegIx) (b : Byte) : (s.setV x b).getV x = b := by
  simp [State.getV_setV]

theorem State.getV_setV_of_ne {x r : RegIx} (h : r ≠ x) (b : Byte) : (s.setV x b).getV r = s.getV r := by
  simp [State.getV_setV, h]

@[simp] theorem State.getV_setFlag_vF (f : Bool) : (s.setFlag f).getV vF = flagByte f :=
  s.getV_setV_same vF (flagByte f)

theorem State.getV_setFlag_of_ne {r : RegIx} (h : r ≠ vF) (f : Bool) : (s.setFlag f).getV r = s.getV r :=
  s.getV_setV_of_ne h (flagByte f)

/-- VF is written last: the flag, whatever X is; another X holds the result; the rest is as before (R83). -/
theorem State.getV_setResult (x r : RegIx) (b : Byte) (f : Bool) :
    (s.setResult x b f).getV r = if r = vF then flagByte f else if r = x then b else s.getV r := by
  simp [State.setResult, State.setFlag, State.getV_setV]

/-- Two states with the same registers read register by register are the same but for the other fields. -/
theorem State.v_ext {s t : State} (h : ∀ r, s.getV r = t.getV r) : s.v = t.v := by
  apply Vector.ext
  intro k hk
  have := h (BitVec.ofNat 4 k)
  simpa [State.getV, Nat.mod_eq_of_lt hk] using this

/-! ### Conditional skip (R100) -/

theorem State.skipIf_true : s.skipIf true = s.skip := rfl

theorem State.skipIf_false : s.skipIf false = s := rfl

/-- A skip decides PC and nothing else. -/
theorem State.skipIf_eq (p : Bool) : s.skipIf p = s.setPc (if p then s.pc + 2 else s.pc) := by
  cases p <;> rfl

@[simp] theorem State.skipIf_pc (p : Bool) : (s.skipIf p).pc = if p then s.pc + 2 else s.pc := by
  rw [State.skipIf_eq]; rfl

@[simp] theorem State.skipIf_v (p : Bool) : (s.skipIf p).v = s.v := by
  rw [State.skipIf_eq]; rfl

@[simp] theorem State.skipIf_i (p : Bool) : (s.skipIf p).i = s.i := by
  rw [State.skipIf_eq]; rfl

@[simp] theorem State.skipIf_stack (p : Bool) : (s.skipIf p).stack = s.stack := by
  rw [State.skipIf_eq]; rfl

@[simp] theorem State.skipIf_dt (p : Bool) : (s.skipIf p).dt = s.dt := by
  rw [State.skipIf_eq]; rfl

@[simp] theorem State.skipIf_st (p : Bool) : (s.skipIf p).st = s.st := by
  rw [State.skipIf_eq]; rfl

@[simp] theorem State.skipIf_fb (p : Bool) : (s.skipIf p).fb = s.fb := by
  rw [State.skipIf_eq]; rfl

@[simp] theorem State.skipIf_key (p : Bool) : (s.skipIf p).key = s.key := by
  rw [State.skipIf_eq]; rfl

@[simp] theorem State.skipIf_mem (p : Bool) : (s.skipIf p).mem = s.mem := by
  rw [State.skipIf_eq]; rfl

@[simp] theorem State.skipIf_cfg (p : Bool) : (s.skipIf p).cfg = s.cfg := by
  rw [State.skipIf_eq]; rfl

@[simp] theorem State.skipIf_draws (p : Bool) : (s.skipIf p).draws = s.draws := by
  rw [State.skipIf_eq]; rfl

@[simp] theorem State.skipIf_redraw (p : Bool) : (s.skipIf p).redraw = s.redraw := by
  rw [State.skipIf_eq]; rfl

@[simp] theorem State.skipIf_unknownWord (p : Bool) : (s.skipIf p).unknownWord = s.unknownWord := by
  rw [State.skipIf_eq]; rfl

end Sys2Proof.Machine
end

