-- ==== Sys2Proof/Laws/Memory.lean ====
section
/-! SUPPORT. Memory: a read after a write (spec/20_memory.md R52, R53), and that every memory operation keeps the
canonical form and the range of the listed addresses. -/

namespace Sys2Proof.Machine

/-! ### The list of cells -/

theorem Memory.find_put (m : List Host.Cell) (a b : Nat) (v : Byte) :
    Memory.find (Memory.put m a v) b = if b = a then some v else Memory.find m b := by
  induction m with
  | nil => simp [Memory.put, Memory.find]
  | cons p m ih =>
    obtain ⟨k, w⟩ := p
    by_cases h1 : a < k
    · simp [Memory.put, Memory.find, h1]
    · by_cases h2 : a = k
      · subst h2
        by_cases h3 : b = a <;> simp [Memory.put, Memory.find, h3]
      · simp only [Memory.put, h1, h2, if_false, Memory.find, ih]
        by_cases h3 : b = k
        · have : b ≠ a := by omega
          simp [h3, show k ≠ a by omega]
        · simp [h3]

theorem Memory.find_drop (m : List Host.Cell) (a b : Nat) :
    Memory.find (Memory.drop m a) b = if b = a then none else Memory.find m b := by
  induction m with
  | nil => simp [Memory.drop, Memory.find]
  | cons p m ih =>
    obtain ⟨k, w⟩ := p
    simp only [Memory.drop] at ih ⊢
    by_cases h : k = a
    · subst h
      by_cases h3 : b = k <;> simp_all [Memory.find]
    · by_cases h3 : b = k
      · subst h3
        simp [h, Memory.find]
      · simp [h, Memory.find, h3, ih]

theorem Memory.mem_put {m : List Host.Cell} {a : Nat} {v : Byte} {p : Host.Cell}
    (h : p ∈ Memory.put m a v) : p = (a, v) ∨ p ∈ m := by
  induction m with
  | nil => simpa [Memory.put] using h
  | cons q m ih =>
    obtain ⟨k, w⟩ := q
    simp only [Memory.put] at h
    split at h
    · simpa using h
    · split at h
      · simp only [List.mem_cons] at h ⊢
        tauto
      · simp only [List.mem_cons] at h ⊢
        rcases h with h | h
        · tauto
        · rcases ih h with h | h <;> tauto

theorem Memory.put_rising {m : List Host.Cell} (hm : m.Pairwise (fun p q => p.1 < q.1)) (a : Nat) (v : Byte) :
    (Memory.put m a v).Pairwise (fun p q => p.1 < q.1) := by
  induction m with
  | nil => simp [Memory.put]
  | cons q m ih =>
    obtain ⟨k, w⟩ := q
    rw [List.pairwise_cons] at hm
    simp only [Memory.put]
    split
    · rename_i hlt
      refine List.pairwise_cons.2 ⟨fun p hp => ?_, List.pairwise_cons.2 hm⟩
      rcases List.mem_cons.1 hp with rfl | hp
      · exact hlt
      · exact hlt.trans (hm.1 p hp)
    · split
      · rename_i heq
        subst heq
        exact List.pairwise_cons.2 hm
      · refine List.pairwise_cons.2 ⟨fun p hp => ?_, ih hm.2⟩
        rcases Memory.mem_put hp with rfl | hp
        · show k < a
          omega
        · exact hm.1 p hp

/-! ### Reads after writes -/

/-- A byte reads as the last value written to it, and a write changes no other byte (R53). -/
theorem Memory.read_write (c : Config) (m : List Host.Cell) (a b : Nat) (v : Byte) :
    Memory.read c (Memory.write c m a v) b = if b = a then v else Memory.read c m b := by
  unfold Memory.read Memory.write
  split
  · rename_i h
    rw [Memory.find_drop]
    split
    · rename_i hb; simp [h, hb]
    · rfl
  · rw [Memory.find_put]
    split <;> rfl

/-- A write keeps the canonical form. -/
theorem Memory.write_wf {c : Config} {m : List Host.Cell} (h : Memory.wf c m) (a : Nat) (v : Byte) :
    Memory.wf c (Memory.write c m a v) := by
  unfold Memory.write
  split
  · exact ⟨h.1.filter _, fun p hp => h.2 p (List.mem_of_mem_filter hp)⟩
  · rename_i hv
    refine ⟨Memory.put_rising h.1 a v, fun p hp => ?_⟩
    rcases Memory.mem_put hp with rfl | hp
    · exact hv
    · exact h.2 p hp

/-- A write lists no address but its own anew. -/
theorem Memory.mem_write {c : Config} {m : List Host.Cell} {a : Nat} {v : Byte} {p : Host.Cell}
    (h : p ∈ Memory.write c m a v) : p.1 = a ∨ p ∈ m := by
  unfold Memory.write at h
  split at h
  · exact .inr (List.mem_of_mem_filter h)
  · rcases Memory.mem_put h with rfl | h
    · exact .inl rfl
    · exact .inr h

/-! ### The state's memory -/

variable (s : State)

theorem State.memRead_memWrite (a b : Nat) (v : Byte) :
    (s.memWrite a v).memRead b = if b = a then v else s.memRead b :=
  Memory.read_write s.cfg s.mem a b v

/-- The k-th byte of a list written from `a` on stands at `a + k`; every other byte is as before. -/
theorem State.memRead_memWrites (a b : Nat) (bs : List Byte) :
    (s.memWrites a bs).memRead b = if h : a ≤ b ∧ b - a < bs.length then bs[b - a]'h.2 else s.memRead b := by
  induction bs generalizing s a with
  | nil => simp [State.memWrites]
  | cons w bs ih =>
    rw [State.memWrites, ih, State.memRead_memWrite]
    by_cases h1 : b = a
    · subst h1
      simp
    · by_cases h2 : a + 1 ≤ b ∧ b - (a + 1) < bs.length
      · have h3 : a ≤ b ∧ b - a < (w :: bs).length := by
          simp only [List.length_cons]; omega
        rw [dif_pos h2, dif_pos h3, List.getElem_cons, dif_neg (by omega)]
        simp only [show b - a - 1 = b - (a + 1) by omega]
      · have h3 : ¬(a ≤ b ∧ b - a < (w :: bs).length) := by
          simp only [List.length_cons]; omega
        rw [dif_neg h2, dif_neg h3, if_neg h1]

/-- Writing bytes changes memory and nothing else. -/
theorem State.memWrites_eq (a : Nat) (bs : List Byte) :
    s.memWrites a bs = { s with mem := (s.memWrites a bs).mem } := by
  induction bs generalizing s a with
  | nil => rfl
  | cons w bs ih => rw [State.memWrites, ih]; rfl

@[simp] theorem State.memWrites_v (a : Nat) (bs : List Byte) : (s.memWrites a bs).v = s.v := by
  rw [State.memWrites_eq]

@[simp] theorem State.memWrites_i (a : Nat) (bs : List Byte) : (s.memWrites a bs).i = s.i := by
  rw [State.memWrites_eq]

@[simp] theorem State.memWrites_pc (a : Nat) (bs : List Byte) : (s.memWrites a bs).pc = s.pc := by
  rw [State.memWrites_eq]

@[simp] theorem State.memWrites_stack (a : Nat) (bs : List Byte) : (s.memWrites a bs).stack = s.stack := by
  rw [State.memWrites_eq]

@[simp] theorem State.memWrites_dt (a : Nat) (bs : List Byte) : (s.memWrites a bs).dt = s.dt := by
  rw [State.memWrites_eq]

@[simp] theorem State.memWrites_st (a : Nat) (bs : List Byte) : (s.memWrites a bs).st = s.st := by
  rw [State.memWrites_eq]

@[simp] theorem State.memWrites_fb (a : Nat) (bs : List Byte) : (s.memWrites a bs).fb = s.fb := by
  rw [State.memWrites_eq]

@[simp] theorem State.memWrites_key (a : Nat) (bs : List Byte) : (s.memWrites a bs).key = s.key := by
  rw [State.memWrites_eq]

@[simp] theorem State.memWrites_cfg (a : Nat) (bs : List Byte) : (s.memWrites a bs).cfg = s.cfg := by
  rw [State.memWrites_eq]

@[simp] theorem State.memWrites_draws (a : Nat) (bs : List Byte) : (s.memWrites a bs).draws = s.draws := by
  rw [State.memWrites_eq]

@[simp] theorem State.memWrites_redraw (a : Nat) (bs : List Byte) : (s.memWrites a bs).redraw = s.redraw := by
  rw [State.memWrites_eq]

@[simp] theorem State.memWrites_unknownWord (a : Nat) (bs : List Byte) : (s.memWrites a bs).unknownWord = s.unknownWord := by
  rw [State.memWrites_eq]

@[simp] theorem State.memWrites_getV (a : Nat) (bs : List Byte) (r : RegIx) :
    (s.memWrites a bs).getV r = s.getV r := by
  rw [State.memWrites_eq]; rfl

/-- Writing bytes keeps the canonical form. -/
theorem State.memWrites_wf (a : Nat) (bs : List Byte) (h : Memory.wf s.cfg s.mem) :
    Memory.wf s.cfg (s.memWrites a bs).mem := by
  induction bs generalizing s a with
  | nil => exact h
  | cons w bs ih => exact ih (s.memWrite a w) (a + 1) (Memory.write_wf h a w)

/-- Writing bytes lists no address outside the range written. -/
theorem State.mem_memWrites {a : Nat} {bs : List Byte} {p : Host.Cell} (h : p ∈ (s.memWrites a bs).mem) :
    (a ≤ p.1 ∧ p.1 < a + bs.length) ∨ p ∈ s.mem := by
  induction bs generalizing s a with
  | nil => exact .inr h
  | cons w bs ih =>
    rcases ih (s.memWrite a w) h with h | h
    · left; simp only [List.length_cons]; omega
    · rcases Memory.mem_write h with h | h
      · left; simp only [List.length_cons]; omega
      · exact .inr h

/-- The font table's bytes after Init (R34). -/
theorem Memory.initial_font (c : Config) (j : Fin 80) : Memory.initial c (c.fontBase + j) = c.fontData[j] := by
  simp [Memory.initial]

/-- Outside the font table memory is 0x00 after Init (R34). -/
theorem Memory.initial_outside {c : Config} {a : Nat} (h : a < c.fontBase ∨ c.fontBase + 80 ≤ a) :
    Memory.initial c a = 0x00 :=
  dif_neg (by omega)

@[simp] theorem State.memRead_init (c : Config) (n a : Nat) : (State.init c n).memRead a = Memory.initial c a := rfl

/-- Init leaves a canonical memory. -/
theorem State.init_mem_wf (c : Config) (n : Nat) : Memory.wf c (State.init c n).mem :=
  ⟨List.Pairwise.nil, fun _ h => absurd h (List.not_mem_nil)⟩

end Sys2Proof.Machine
end

