-- ==== Sys2Proof/Laws/Ops.lean ====
section
/-! SUPPORT. One lemma for each shared operation that says what it can do, for the proofs to cite. -/

namespace Sys2Proof.Machine

variable (s : State)

/-! ### CheckRange (R54) -/

theorem State.inRange_iff (a n : Nat) : s.inRange a n = true ↔ n = 0 ∨ a + n - 1 < s.cfg.memSize := by
  simp [State.inRange]

/-- A check that answers a next state passed, and the state is the one behind it. -/
theorem State.checkRange_next {a n : Nat} {t t' : State} (h : s.checkRange a n t = .next t') :
    (n = 0 ∨ a + n - 1 < s.cfg.memSize) ∧ t' = t := by
  unfold State.checkRange at h
  split at h
  · exact ⟨(s.inRange_iff a n).1 ‹_›, by injection h with h; exact h.symm⟩
  · cases h

/-- A check that answers a fault failed, and the fault is MemoryOutOfRange with the first address outside. -/
theorem State.checkRange_fault {a n : Nat} {t : State} {f : Fault} (h : s.checkRange a n t = .fault f) :
    n ≠ 0 ∧ s.cfg.memSize ≤ a + n - 1 ∧ f = .memoryOutOfRange (s.pc - 2) (max a s.cfg.memSize) := by
  unfold State.checkRange at h
  split at h
  · cases h
  · rename_i hr
    rw [State.inRange_iff, not_or, Nat.not_lt] at hr
    exact ⟨hr.1, hr.2, by injection h with h; exact h.symm⟩

theorem State.checkRange_pass {a n : Nat} (h : n = 0 ∨ a + n - 1 < s.cfg.memSize) (t : State) :
    s.checkRange a n t = .next t :=
  if_pos ((s.inRange_iff a n).2 h)

theorem State.checkRange_fail {a n : Nat} (h0 : n ≠ 0) (h : s.cfg.memSize ≤ a + n - 1) (t : State) :
    s.checkRange a n t = .fault (.memoryOutOfRange (s.pc - 2) (max a s.cfg.memSize)) :=
  if_neg (by rw [State.inRange_iff, not_or]; omega)

/-! ### The call stack (R25) -/

theorem State.push_next {w : Word} {k : State → State} {t : State} (h : s.push w k = .next t) :
    s.stack.length < 16 ∧ t = k { s with stack := s.stack ++ [w] } := by
  unfold State.push at h
  split at h
  · exact ⟨‹_›, by injection h with h; exact h.symm⟩
  · cases h

theorem State.push_fault {w : Word} {k : State → State} {f : Fault} (h : s.push w k = .fault f) :
    16 ≤ s.stack.length ∧ f = .stackOverflow (s.pc - 2) := by
  unfold State.push at h
  split at h
  · cases h
  · exact ⟨Nat.not_lt.1 ‹_›, by injection h with h; exact h.symm⟩

theorem State.pop_next {k : Word → State → State} {t : State} (h : s.pop k = .next t) :
    ∃ w, s.stack.getLast? = some w ∧ t = k w { s with stack := s.stack.dropLast } := by
  unfold State.pop at h
  split at h
  · exact ⟨_, ‹_›, by injection h with h; exact h.symm⟩
  · cases h

theorem State.pop_fault {k : Word → State → State} {f : Fault} (h : s.pop k = .fault f) :
    s.stack = [] ∧ f = .stackUnderflow (s.pc - 2) := by
  unfold State.pop at h
  split at h
  · cases h
  · exact ⟨List.getLast?_eq_none_iff.1 ‹_›, by injection h with h; exact h.symm⟩

/-! ### Loading registers (R145) -/

@[simp] theorem State.loadRegs_mem (rs : List RegIx) : (s.loadRegs rs).mem = s.mem := by
  induction rs generalizing s with
  | nil => rfl
  | cons r rs ih => exact ih _

/-- Loading registers changes registers and nothing else. -/
theorem State.loadRegs_eq (rs : List RegIx) : s.loadRegs rs = { s with v := (s.loadRegs rs).v } := by
  induction rs generalizing s with
  | nil => rfl
  | cons r rs ih => rw [State.loadRegs, ih]; rfl

@[simp] theorem State.loadRegs_i (rs : List RegIx) : (s.loadRegs rs).i = s.i := by
  rw [State.loadRegs_eq]

@[simp] theorem State.loadRegs_pc (rs : List RegIx) : (s.loadRegs rs).pc = s.pc := by
  rw [State.loadRegs_eq]

@[simp] theorem State.loadRegs_stack (rs : List RegIx) : (s.loadRegs rs).stack = s.stack := by
  rw [State.loadRegs_eq]

@[simp] theorem State.loadRegs_dt (rs : List RegIx) : (s.loadRegs rs).dt = s.dt := by
  rw [State.loadRegs_eq]

@[simp] theorem State.loadRegs_st (rs : List RegIx) : (s.loadRegs rs).st = s.st := by
  rw [State.loadRegs_eq]

@[simp] theorem State.loadRegs_fb (rs : List RegIx) : (s.loadRegs rs).fb = s.fb := by
  rw [State.loadRegs_eq]

@[simp] theorem State.loadRegs_key (rs : List RegIx) : (s.loadRegs rs).key = s.key := by
  rw [State.loadRegs_eq]

@[simp] theorem State.loadRegs_cfg (rs : List RegIx) : (s.loadRegs rs).cfg = s.cfg := by
  rw [State.loadRegs_eq]

@[simp] theorem State.loadRegs_draws (rs : List RegIx) : (s.loadRegs rs).draws = s.draws := by
  rw [State.loadRegs_eq]

@[simp] theorem State.loadRegs_redraw (rs : List RegIx) : (s.loadRegs rs).redraw = s.redraw := by
  rw [State.loadRegs_eq]

@[simp] theorem State.loadRegs_unknownWord (rs : List RegIx) : (s.loadRegs rs).unknownWord = s.unknownWord := by
  rw [State.loadRegs_eq]

/-- A loaded register holds the byte at `I` plus its number; the others are as before. -/
theorem State.getV_loadRegs (rs : List RegIx) (q : RegIx) :
    (s.loadRegs rs).getV q = if q ∈ rs then s.memRead (s.indexed q.toNat) else s.getV q := by
  induction rs generalizing s with
  | nil => simp [State.loadRegs]
  | cons r rs ih =>
    rw [State.loadRegs, ih]
    have hread : ∀ b k, (s.setV r b).memRead ((s.setV r b).indexed k) = s.memRead (s.indexed k) := fun _ _ => rfl
    by_cases h1 : q ∈ rs
    · simp [h1, hread]
    · by_cases h2 : q = r
      · subst h2; simp [h1]
      · simp [h1, h2, State.getV_setV]

/-- V0 to VX are the registers numbered at most X. -/
theorem mem_regsUpTo (x r : RegIx) : r ∈ regsUpTo x ↔ r.toNat ≤ x.toNat := by
  constructor
  · intro h
    obtain ⟨k, hk, rfl⟩ := List.mem_map.1 h
    rw [List.mem_range] at hk
    have := x.isLt
    simp only [BitVec.toNat_ofNat]
    omega
  · intro h
    exact List.mem_map.2 ⟨r.toNat, List.mem_range.2 (by omega), by simp⟩

@[simp] theorem length_regsUpTo (x : RegIx) : (regsUpTo x).length = x.toNat + 1 := by
  simp [regsUpTo]

/-! ### Pixels (R28) -/

theorem FrameBuffer.pixel_setPixel (fb : FrameBuffer) (x p : Fin 64) (y q : Fin 32) (b : Bool) :
    (fb.setPixel x y b).pixel p q = if p = x ∧ q = y then b else fb.pixel p q := by
  unfold FrameBuffer.pixel FrameBuffer.setPixel
  rw [Vector.getElem_set]
  by_cases hx : x = p
  · subst hx
    rw [if_pos rfl, Vector.getElem_set]
    by_cases hy : y = q
    · subst hy; simp
    · have hy' : y.val ≠ q.val := fun h => hy (Fin.ext h)
      simp [hy', Ne.symm hy]
  · have hx' : x.val ≠ p.val := fun h => hx (Fin.ext h)
    simp [hx', Ne.symm hx]

/-- Two framebuffers with the same pixels are the same. -/
theorem FrameBuffer.ext_pixel {fb fb' : FrameBuffer} (h : ∀ x y, fb.pixel x y = fb'.pixel x y) : fb = fb' := by
  apply Vector.ext
  intro x hx
  apply Vector.ext
  intro y hy
  exact h ⟨x, hx⟩ ⟨y, hy⟩

@[simp] theorem FrameBuffer.pixel_clear (x : Fin 64) (y : Fin 32) : FrameBuffer.clear.pixel x y = false := by
  simp [FrameBuffer.pixel, FrameBuffer.clear]

/-! ### Fetch (R72) -/

/-- The three ways a fetch ends. -/
theorem State.fetch_cases :
    (s.cfg.misalignedFetch = .fault ∧ s.pc.getLsbD 0 = true ∧ s.fetch = .error (.misalignedFetch s.pc)) ∨
    (¬(s.cfg.misalignedFetch = .fault ∧ s.pc.getLsbD 0 = true) ∧ s.cfg.memSize ≤ s.pc.toNat + 1 ∧
      s.fetch = .error (.memoryOutOfRange s.pc (max s.pc.toNat s.cfg.memSize))) ∨
    (¬(s.cfg.misalignedFetch = .fault ∧ s.pc.getLsbD 0 = true) ∧ s.pc.toNat + 1 < s.cfg.memSize ∧
      s.fetch = .ok (wordOfBytes (s.memRead s.pc.toNat) (s.memRead (s.pc.toNat + 1)))) := by
  unfold State.fetch
  split
  · exact .inl ⟨‹_ ∧ _›.1, ‹_ ∧ _›.2, rfl⟩
  · split
    · exact .inr (.inr ⟨‹_›, ‹_›, rfl⟩)
    · exact .inr (.inl ⟨‹_›, Nat.not_lt.1 ‹_›, rfl⟩)

/-- Inside an instruction PC - 2 is the address it was fetched from. -/
@[simp] theorem State.instrAddr_advance : s.advance.instrAddr = s.pc := by
  simp [State.instrAddr]

/-- The state after an error is the one before the step or the advanced one, outputs cleared (R203). -/
theorem State.errorState_cases : s.errorState = s.clearOutputs ∨ s.errorState = s.advance := by
  unfold State.errorState
  split
  · exact .inl rfl
  · exact .inr rfl

/-- Whether a fetch fails, and how, depends on PC and the configuration alone. -/
theorem State.fetch_error_congr {t : State} {f : Fault} (hpc : t.pc = s.pc) (hcfg : t.cfg = s.cfg)
    (h : s.fetch = .error f) : t.fetch = .error f := by
  unfold State.fetch State.firstOutside at *
  rw [hpc, hcfg]
  split at h
  · rwa [if_pos ‹_›]
  · rw [if_neg ‹_›]
    split at h
    · cases h
    · rwa [if_neg ‹_›]

/-! ### Addresses and keys (R146, R182) -/

theorem State.indexed_eq (k : Nat) : s.indexed k = s.i.toNat + k := rfl

/-- The scan answers a held key with no held key below it. -/
theorem State.lowestKey_some {k : BitVec 4} (h : s.lowestKey = some k) : s.keyHeld k = true :=
  List.find?_some h

/-- The scan answers none only when no key is held. -/
theorem State.lowestKey_none : s.lowestKey = none ↔ ∀ k, s.keyHeld k = false := by
  unfold State.lowestKey
  rw [List.find?_eq_none]
  constructor
  · intro h k
    have := h k ((mem_regsUpTo 0xF k).2 (by have := k.isLt; simp; omega))
    simpa using this
  · intro h k _
    simp [h]

/-! ### A step (R71) -/

/-- A step that completes ran an unrecognised word as a no-op, or ran the decoded instruction. -/
theorem step_next {s t : State} (h : step s = .next t) :
    ∃ w, s.fetch = .ok w ∧
      ((decodeWord w = none ∧ s.cfg.unknownOpcodePolicy = .nopReport ∧ t = { s.advance with unknownWord := some w }) ∨
        ∃ i, decodeWord w = some i ∧ exec i s.advance = .next t) := by
  unfold step at h
  split at h
  · cases h
  · rename_i w hw
    refine ⟨w, hw, ?_⟩
    split at h
    · rename_i hd
      refine .inl ⟨hd, ?_⟩
      unfold State.unrecognisedWord at h
      split at h
      · exact ⟨‹_›, by injection h with h; exact h.symm⟩
      · cases h
    · exact .inr ⟨_, ‹_›, h⟩

end Sys2Proof.Machine
end

