-- ==== Sys2Proof/Laws/PerInstr.lean ====
section
/-! SUPPORT. A statement per instruction, by its encoding: the word of an instruction carries the fixed bits of the
instruction's own row of spec/opcode_table.json, and of no other row (spec/30_encoding.md R76, R81). -/

namespace Sys2Proof.Laws.EncodingRow

/-- The rows that cover the encoded word are exactly the rows with the instruction's own pattern. -/
def Statement (i : Instr) : Prop :=
  (opcodeTable.filter (·.covers (encode i))).map OpcodeRow.pattern = [i.pattern]

theorem op00E0 : Statement .op00E0 := by
  unfold Statement
  decide

theorem op00EE : Statement .op00EE := by
  unfold Statement
  decide

theorem op1NNN (nnn : Addr) : Statement (.op1NNN nnn) := by
  simp [Statement, opcodeTable, encode, OpcodeRow.covers_wordNNN, Instr.pattern, fieldClass, fieldNNN]

theorem op2NNN (nnn : Addr) : Statement (.op2NNN nnn) := by
  simp [Statement, opcodeTable, encode, OpcodeRow.covers_wordNNN, Instr.pattern, fieldClass, fieldNNN]

theorem op3XNN (x : RegIx) (nn : Byte) : Statement (.op3XNN x nn) := by
  simp [Statement, opcodeTable, encode, OpcodeRow.covers_wordXNN, Instr.pattern, fieldClass, fieldX, fieldNN]

theorem op4XNN (x : RegIx) (nn : Byte) : Statement (.op4XNN x nn) := by
  simp [Statement, opcodeTable, encode, OpcodeRow.covers_wordXNN, Instr.pattern, fieldClass, fieldX, fieldNN]

theorem op5XY0 (x y : RegIx) : Statement (.op5XY0 x y) := by
  simp [Statement, opcodeTable, encode, OpcodeRow.covers_wordXYN, Instr.pattern, fieldClass, fieldX, fieldY, fieldN]

theorem op6XNN (x : RegIx) (nn : Byte) : Statement (.op6XNN x nn) := by
  simp [Statement, opcodeTable, encode, OpcodeRow.covers_wordXNN, Instr.pattern, fieldClass, fieldX, fieldNN]

theorem op7XNN (x : RegIx) (nn : Byte) : Statement (.op7XNN x nn) := by
  simp [Statement, opcodeTable, encode, OpcodeRow.covers_wordXNN, Instr.pattern, fieldClass, fieldX, fieldNN]

theorem op8XY0 (x y : RegIx) : Statement (.op8XY0 x y) := by
  simp [Statement, opcodeTable, encode, OpcodeRow.covers_wordXYN, Instr.pattern, fieldClass, fieldX, fieldY, fieldN]

theorem op8XY1 (x y : RegIx) : Statement (.op8XY1 x y) := by
  simp [Statement, opcodeTable, encode, OpcodeRow.covers_wordXYN, Instr.pattern, fieldClass, fieldX, fieldY, fieldN]

theorem op8XY2 (x y : RegIx) : Statement (.op8XY2 x y) := by
  simp [Statement, opcodeTable, encode, OpcodeRow.covers_wordXYN, Instr.pattern, fieldClass, fieldX, fieldY, fieldN]

theorem op8XY3 (x y : RegIx) : Statement (.op8XY3 x y) := by
  simp [Statement, opcodeTable, encode, OpcodeRow.covers_wordXYN, Instr.pattern, fieldClass, fieldX, fieldY, fieldN]

theorem op8XY4 (x y : RegIx) : Statement (.op8XY4 x y) := by
  simp [Statement, opcodeTable, encode, OpcodeRow.covers_wordXYN, Instr.pattern, fieldClass, fieldX, fieldY, fieldN]

theorem op8XY5 (x y : RegIx) : Statement (.op8XY5 x y) := by
  simp [Statement, opcodeTable, encode, OpcodeRow.covers_wordXYN, Instr.pattern, fieldClass, fieldX, fieldY, fieldN]

theorem op8XY6 (x y : RegIx) : Statement (.op8XY6 x y) := by
  simp [Statement, opcodeTable, encode, OpcodeRow.covers_wordXYN, Instr.pattern, fieldClass, fieldX, fieldY, fieldN]

theorem op8XY7 (x y : RegIx) : Statement (.op8XY7 x y) := by
  simp [Statement, opcodeTable, encode, OpcodeRow.covers_wordXYN, Instr.pattern, fieldClass, fieldX, fieldY, fieldN]

theorem op8XYE (x y : RegIx) : Statement (.op8XYE x y) := by
  simp [Statement, opcodeTable, encode, OpcodeRow.covers_wordXYN, Instr.pattern, fieldClass, fieldX, fieldY, fieldN]

theorem op9XY0 (x y : RegIx) : Statement (.op9XY0 x y) := by
  simp [Statement, opcodeTable, encode, OpcodeRow.covers_wordXYN, Instr.pattern, fieldClass, fieldX, fieldY, fieldN]

theorem opANNN (nnn : Addr) : Statement (.opANNN nnn) := by
  simp [Statement, opcodeTable, encode, OpcodeRow.covers_wordNNN, Instr.pattern, fieldClass, fieldNNN]

theorem opBNNN (nnn : Addr) : Statement (.opBNNN nnn) := by
  simp [Statement, opcodeTable, encode, OpcodeRow.covers_wordNNN, Instr.pattern, fieldClass, fieldNNN]

theorem opCXNN (x : RegIx) (nn : Byte) : Statement (.opCXNN x nn) := by
  simp [Statement, opcodeTable, encode, OpcodeRow.covers_wordXNN, Instr.pattern, fieldClass, fieldX, fieldNN]

theorem opDXYN (x y : RegIx) (n : Nibble) : Statement (.opDXYN x y n) := by
  simp [Statement, opcodeTable, encode, OpcodeRow.covers_wordXYN, Instr.pattern, fieldClass, fieldX, fieldY, fieldN]

theorem opEX9E (x : RegIx) : Statement (.opEX9E x) := by
  simp [Statement, opcodeTable, encode, OpcodeRow.covers_wordXNN, Instr.pattern, fieldClass, fieldX, fieldNN]

theorem opEXA1 (x : RegIx) : Statement (.opEXA1 x) := by
  simp [Statement, opcodeTable, encode, OpcodeRow.covers_wordXNN, Instr.pattern, fieldClass, fieldX, fieldNN]

theorem opFX07 (x : RegIx) : Statement (.opFX07 x) := by
  simp [Statement, opcodeTable, encode, OpcodeRow.covers_wordXNN, Instr.pattern, fieldClass, fieldX, fieldNN]

theorem opFX0A (x : RegIx) : Statement (.opFX0A x) := by
  simp [Statement, opcodeTable, encode, OpcodeRow.covers_wordXNN, Instr.pattern, fieldClass, fieldX, fieldNN]

theorem opFX15 (x : RegIx) : Statement (.opFX15 x) := by
  simp [Statement, opcodeTable, encode, OpcodeRow.covers_wordXNN, Instr.pattern, fieldClass, fieldX, fieldNN]

theorem opFX18 (x : RegIx) : Statement (.opFX18 x) := by
  simp [Statement, opcodeTable, encode, OpcodeRow.covers_wordXNN, Instr.pattern, fieldClass, fieldX, fieldNN]

theorem opFX1E (x : RegIx) : Statement (.opFX1E x) := by
  simp [Statement, opcodeTable, encode, OpcodeRow.covers_wordXNN, Instr.pattern, fieldClass, fieldX, fieldNN]

theorem opFX29 (x : RegIx) : Statement (.opFX29 x) := by
  simp [Statement, opcodeTable, encode, OpcodeRow.covers_wordXNN, Instr.pattern, fieldClass, fieldX, fieldNN]

theorem opFX33 (x : RegIx) : Statement (.opFX33 x) := by
  simp [Statement, opcodeTable, encode, OpcodeRow.covers_wordXNN, Instr.pattern, fieldClass, fieldX, fieldNN]

theorem opFX55 (x : RegIx) : Statement (.opFX55 x) := by
  simp [Statement, opcodeTable, encode, OpcodeRow.covers_wordXNN, Instr.pattern, fieldClass, fieldX, fieldNN]

theorem opFX65 (x : RegIx) : Statement (.opFX65 x) := by
  simp [Statement, opcodeTable, encode, OpcodeRow.covers_wordXNN, Instr.pattern, fieldClass, fieldX, fieldNN]

end Sys2Proof.Laws.EncodingRow
end

