-- ==== Sys2Proof/Laws/Transactions.lean ====
section
/-! SUPPORT. One lemma for each host transaction that does more than set a field (spec/60_exceptions.md R220). -/

namespace Sys2Proof.Machine

variable (s : State)

/-- A timer counts down by one and stops at 0 (R213). -/
theorem toNat_countDown (b : Byte) : (countDown b).toNat = b.toNat - 1 := by
  have := b.isLt
  unfold countDown
  split
  · simp; omega
  · omega

/-- A program that fits is written to 0x200 on (R242). -/
theorem State.loadProgram_fits {bytes : List Byte} (h : bytes.length ≤ s.cfg.memSize - 0x200) :
    s.loadProgram bytes = .ok (s.memWrites 0x200 bytes) := by
  unfold State.loadProgram State.programRoom Config.progStart
  exact if_neg (Nat.not_lt.2 h)

/-- A program that does not fit is a LoadOverflow (R243). -/
theorem State.loadProgram_overflow {bytes : List Byte} (h : s.cfg.memSize - 0x200 < bytes.length) :
    s.loadProgram bytes = .error (.loadOverflow bytes.length) := by
  unfold State.loadProgram State.programRoom Config.progStart
  exact if_pos h

/-- The Step transaction of a step that raises an error (R14, R203). -/
theorem State.stepTransaction_fault {f : Fault} (h : step s = .fault f) :
    s.stepTransaction = (.stepped (.error f) false, s.errorState) := by
  unfold State.stepTransaction
  rw [h]

/-- The Step transaction of a step that completes (R14). -/
theorem State.stepTransaction_next {t : State} (h : step s = .next t) :
    s.stepTransaction = (.stepped t.completed t.redraw, t) := by
  unfold State.stepTransaction
  rw [h]

end Sys2Proof.Machine
end

