-- ==== Sys2Proof/Tests/Slice0.lean ====
section
/-! SUPPORT. Tests of the model against the worked examples and vectors of spec/95_test_vectors.md (named in each
test's comment), the encodings of spec/opcode_table.json, and a witness for the hypotheses of each statement. -/

namespace Sys2Proof.Tests

open Sys2Proof Sys2Proof.Machine

/-! ### Helpers -/

/-- The machine after Init with the word under test at 0x200, as section 0 of the vectors has it. -/
def start (w : Nat) : State := State.reset.withFetchWord 16 w

/-- The next state, if there is one. -/
def nextOf : Result → Option State
  | .next t => some t
  | _ => none

/-- The fault, if there is one. -/
def faultOf : Result → Option Fault
  | .fault f => some f
  | _ => none

/-- What a step from `s` leaves, seen through `f`. -/
def after {α : Type} (s : State) (f : State → α) : Option α := (nextOf (step s)).map f

/-- `s` with PC at `a`. -/
def at' (s : State) (a : Nat) : State := s.setPc (BitVec.ofNat 16 a)

/-- `s` with the given key held. -/
def hold (s : State) (k : Fin 16) : State := { s with key := s.key.set k true }

def faultOnOdd (s : State) : State := { s with cfg := { s.cfg with misalignedFetch := .fault } }

def fatal (s : State) : State := { s with cfg := { s.cfg with unknownOpcodePolicy := .fatal } }

/-- `s` with a stack of n entries. -/
def stacked (s : State) (n : Nat) : State := { s with stack := List.replicate n 0x206 }

/-- `s` with one pixel on. -/
def lit (s : State) (x : Fin 64) (y : Fin 32) : State := { s with fb := s.fb.setPixel x y true }

/-! ### Well-formedness: an ill-formed term for each check (R6, R7, R80, R81) -/

theorem test_default_config_wellFormed : Config.default.wellFormed = true := by decide

theorem test_memSize_too_small : { Config.default with memSize := 0x1FF }.wellFormed = false := by decide

theorem test_memSize_too_large : { Config.default with memSize := 0x10001 }.wellFormed = false := by decide

theorem test_font_past_reserved : { Config.default with fontBase := 0x1B1 }.wellFormed = false := by decide

theorem test_config_bounds_wellFormed :
    { Config.default with memSize := 0x200, fontBase := 0x1B0 }.wellFormed = true ∧
    { Config.default with memSize := 0x10000, fontBase := 0 }.wellFormed = true := by decide

/-- T1 to T7: words outside the table. -/
theorem test_words_outside_table :
    recognised 0x0000 = false ∧ recognised 0x0123 = false ∧ recognised 0x5121 = false ∧ recognised 0x8018 = false ∧
    recognised 0x801F = false ∧ recognised 0x9121 = false ∧ recognised 0xE000 = false ∧ recognised 0xF0FF = false := by
  decide

/-! ### Decoding: a word written out bit by bit for each constructor (R74, R76) -/

theorem test_decode_control :
    decodeWord 0b0000_0000_1110_1110 = some .op00EE ∧
    decodeWord 0b0001_0010_0011_0100 = some (.op1NNN 0x234) ∧
    decodeWord 0b0010_0010_0001_0000 = some (.op2NNN 0x210) ∧
    decodeWord 0b0011_0011_0100_0010 = some (.op3XNN 0x3 0x42) ∧
    decodeWord 0b0100_0011_0100_0010 = some (.op4XNN 0x3 0x42) ∧
    decodeWord 0b0101_0001_0010_0000 = some (.op5XY0 0x1 0x2) ∧
    decodeWord 0b1001_0001_0010_0000 = some (.op9XY0 0x1 0x2) ∧
    decodeWord 0b1011_0011_0000_0000 = some (.opBNNN 0x300) := by decide

theorem test_decode_registers :
    decodeWord 0b0110_1010_0010_1111 = some (.op6XNN 0xA 0x2F) ∧
    decodeWord 0b0111_0001_0000_0011 = some (.op7XNN 0x1 0x03) ∧
    decodeWord 0b1000_0001_0010_0000 = some (.op8XY0 0x1 0x2) ∧
    decodeWord 0b1000_0001_0010_0001 = some (.op8XY1 0x1 0x2) ∧
    decodeWord 0b1000_0001_0010_0010 = some (.op8XY2 0x1 0x2) ∧
    decodeWord 0b1000_0001_0010_0011 = some (.op8XY3 0x1 0x2) ∧
    decodeWord 0b1000_1010_1011_0100 = some (.op8XY4 0xA 0xB) ∧
    decodeWord 0b1000_0001_0010_0101 = some (.op8XY5 0x1 0x2) ∧
    decodeWord 0b1000_0001_0010_0110 = some (.op8XY6 0x1 0x2) ∧
    decodeWord 0b1000_0001_0010_0111 = some (.op8XY7 0x1 0x2) ∧
    decodeWord 0b1000_0001_0010_1110 = some (.op8XYE 0x1 0x2) ∧
    decodeWord 0b1100_0011_0000_1111 = some (.opCXNN 0x3 0x0F) := by decide

theorem test_decode_index_memory :
    decodeWord 0b1010_0011_0000_0000 = some (.opANNN 0x300) ∧
    decodeWord 0b1111_0010_0001_1110 = some (.opFX1E 0x2) ∧
    decodeWord 0b1111_0000_0010_1001 = some (.opFX29 0x0) ∧
    decodeWord 0b1111_0001_0011_0011 = some (.opFX33 0x1) ∧
    decodeWord 0b1111_0010_0101_0101 = some (.opFX55 0x2) ∧
    decodeWord 0b1111_0010_0110_0101 = some (.opFX65 0x2) := by decide

theorem test_decode_display_input_timer :
    decodeWord 0b0000_0000_1110_0000 = some .op00E0 ∧
    decodeWord 0b1101_0001_0010_0101 = some (.opDXYN 0x1 0x2 0x5) ∧
    decodeWord 0b1110_0100_1001_1110 = some (.opEX9E 0x4) ∧
    decodeWord 0b1110_0100_1010_0001 = some (.opEXA1 0x4) ∧
    decodeWord 0b1111_0101_0000_0111 = some (.opFX07 0x5) ∧
    decodeWord 0b1111_0011_0000_1010 = some (.opFX0A 0x3) ∧
    decodeWord 0b1111_0101_0001_0101 = some (.opFX15 0x5) ∧
    decodeWord 0b1111_0110_0001_1000 = some (.opFX18 0x6) := by decide

/-- R70: two bytes, the first the most significant; fewer are truncated. -/
theorem test_decode_bytes :
    decode [0xA1, 0x23, 0x77] = .ok (.opANNN 0x123, [0x77]) ∧ decode [0xA1] = .error .truncated ∧
    decode [0x80, 0x18] = .error (.unrecognised 0x8018) := by decide

/-- The host's numbering: bit 0 is the least significant bit of the one word. -/
theorem test_decodeTableWord : decodeTableWord 16 0x8AB4 = some (.op8XY4 0xA 0xB) ∧ decodeTableWord 16 0 = none := by
  decide

/-! ### The step (vectors T1 to T14) -/

theorem test_T1_unknown_reported :
    (start 0x0000).stepTransaction.1 = .stepped (.unknown 0x0000) false ∧
    (start 0x0000).stepTransaction.2.pc = 0x202 := by decide

theorem test_T2_unknown_fatal :
    (fatal (start 0x0123)).stepTransaction.1 = .stepped (.error (.unknownOpcode 0x200 0x0123)) false ∧
    (fatal (start 0x0123)).stepTransaction.2.pc = 0x202 := by decide

theorem test_T5_strict_low_nibble : after (((start 0x5121).setV 1 1).setV 2 1) (·.pc) = some 0x202 := by decide

theorem test_T8_T9_fetch_out_of_range :
    faultOf (step (at' State.reset 0xFFF)) = some (.memoryOutOfRange 0xFFF 0x1000) ∧
    faultOf (step (at' State.reset 0x1000)) = some (.memoryOutOfRange 0x1000 0x1000) ∧
    (at' State.reset 0xFFF).stepTransaction.2.pc = 0xFFF := by decide

theorem test_T10_last_word :
    after ((at' State.reset 0xFFE).withFetchWord 16 0x6001) (fun t => (t.getV 0, t.pc)) = some (0x01, 0x1000) := by
  decide

theorem test_T11_odd_fetch_executes :
    after ((at' State.reset 0x201).withFetchWord 16 0x6001) (fun t => (t.getV 0, t.pc)) = some (0x01, 0x203) := by
  decide

theorem test_T12_T13_odd_fetch_faults :
    faultOf (step (faultOnOdd (at' State.reset 0x201))) = some (.misalignedFetch 0x201) ∧
    faultOf (step (faultOnOdd (at' State.reset 0xFFF))) = some (.misalignedFetch 0xFFF) := by decide

/-- T14: the byte at the lower address is the high byte. -/
theorem test_T14_big_endian :
    after ((State.reset.memWrite 0x200 0xA1).memWrite 0x201 0x23) (·.i) = some 0x123 := by decide

/-- R200: the codes. -/
theorem test_error_codes :
    [Fault.loadOverflow 0, .memoryOutOfRange 0 0, .stackOverflow 0, .stackUnderflow 0, .unknownOpcode 0 0,
      .misalignedFetch 0].map Fault.code = [1, 2, 3, 4, 5, 6] := by decide

/-! ### Control flow (vectors C1 to C20) -/

theorem test_C1_return :
    after (stacked (start 0x00EE) 1) (fun t => (t.pc, t.stack)) = some (0x206, []) := by decide

theorem test_C2_underflow :
    faultOf (step (start 0x00EE)) = some (.stackUnderflow 0x200) ∧ (start 0x00EE).stepTransaction.2.pc = 0x202 := by
  decide

theorem test_C3_jump : after (start 0x1234) (·.pc) = some 0x234 := by decide

theorem test_C7_sixteenth_call :
    after (stacked (start 0x2300) 15) (fun t => (t.stack.length, t.stack.getLast?, t.pc)) =
      some (16, some 0x202, 0x300) := by decide

theorem test_C8_overflow :
    faultOf (step (stacked (start 0x2300) 16)) = some (.stackOverflow 0x200) ∧
    (stacked (start 0x2300) 16).stepTransaction.2 = (stacked (start 0x2300) 16).setPc 0x202 := by decide

theorem test_C9_C10 :
    after ((start 0x3342).setV 3 0x42) (·.pc) = some 0x204 ∧
    after ((start 0x3342).setV 3 0x41) (·.pc) = some 0x202 := by decide

theorem test_C11_C12 :
    after ((start 0x4342).setV 3 0x41) (·.pc) = some 0x204 ∧
    after ((start 0x4342).setV 3 0x42) (·.pc) = some 0x202 := by decide

theorem test_C13_C14 :
    after (((start 0x5120).setV 1 1).setV 2 1) (·.pc) = some 0x204 ∧ after (start 0x5110) (·.pc) = some 0x204 := by
  decide

theorem test_C15_C16 :
    after (((start 0x9120).setV 1 0x10).setV 2 0x11) (·.pc) = some 0x204 ∧
    after (start 0x9110) (·.pc) = some 0x202 := by decide

theorem test_C18_C19 :
    after ((start 0xB201).setV 0 0x02) (·.pc) = some 0x203 ∧
    after ((start 0xBFFF).setV 0 0xFF) (·.pc) = some 0x10FE := by decide

/-! ### Registers and arithmetic (vectors A1 to A29) -/

theorem test_A2_load_VF : after (start 0x6F12) (·.getV 0xF) = some 0x12 := by decide

theorem test_A3_add_byte_no_flag :
    after ((start 0x7103).setV 1 0xFE) (fun t => (t.getV 1, t.getV 0xF)) = some (0x01, 0x00) := by decide

theorem test_A6_copy : after (((start 0x8010).setV 0 1).setV 1 2) (·.getV 0) = some 0x02 := by decide

theorem test_A7_or_keeps_VF :
    after ((((start 0x8011).setV 0 0x0F).setV 1 0xF0).setV 0xF 0x55) (fun t => (t.getV 0, t.getV 0xF)) =
      some (0xFF, 0x55) := by decide

theorem test_R124_and : after (((start 0x8122).setV 1 0xF3).setV 2 0x3F) (·.getV 1) = some 0x33 := by decide

theorem test_R125_xor : after (((start 0x8123).setV 1 0xFF).setV 2 0x0F) (·.getV 1) = some 0xF0 := by decide

theorem test_A10_carry :
    after (((start 0x8014).setV 0 0x80).setV 1 0x80) (fun t => (t.getV 0, t.getV 0xF)) = some (0x00, 1) := by decide

theorem test_A12_A13_add_with_VF :
    after (((start 0x8F14).setV 0xF 0x80).setV 1 0x90) (·.getV 0xF) = some 1 ∧
    after (((start 0x81F4).setV 1 0x10).setV 0xF 0x05) (fun t => (t.getV 1, t.getV 0xF)) = some (0x15, 0) := by decide

theorem test_A14_A15_sub :
    after (((start 0x8015).setV 0 5).setV 1 5) (fun t => (t.getV 0, t.getV 0xF)) = some (0x00, 1) ∧
    after (((start 0x8015).setV 0 5).setV 1 6) (fun t => (t.getV 0, t.getV 0xF)) = some (0xFF, 0) := by decide

theorem test_A19_shift_right_ignores_Y :
    after (((start 0x8016).setV 0 1).setV 1 0xAA) (fun t => (t.getV 0, t.getV 0xF, t.getV 1)) =
      some (0x00, 1, 0xAA) := by decide

theorem test_A20_shift_right_VF : after ((start 0x8F06).setV 0xF 0x03) (·.getV 0xF) = some 1 := by decide

theorem test_A22_A23_subn :
    after (((start 0x8017).setV 0 6).setV 1 5) (fun t => (t.getV 0, t.getV 0xF)) = some (0xFF, 0) ∧
    after (((start 0x8F17).setV 0xF 1).setV 1 0) (·.getV 0xF) = some 0 := by decide

theorem test_A24_A26_shift_left :
    after ((start 0x801E).setV 0 0x80) (fun t => (t.getV 0, t.getV 0xF)) = some (0x00, 1) ∧
    after ((start 0x8F0E).setV 0xF 0x40) (·.getV 0xF) = some 0 := by decide

/-- A28: whatever the draw, NN = 0x00 gives 0x00, and one draw is taken. -/
theorem test_A28_random_masked : ∃ t, step (start 0xC000) = .next t ∧ t.getV 0 = 0x00 ∧ t.draws = 1 :=
  ⟨_, rfl, BitVec.and_zero, rfl⟩

/-! ### Index register and memory (vectors M1 to M21) -/

theorem test_M1_load_index : after (start 0xA300) (·.i) = some 0x300 := by decide

theorem test_M3_M4_add_index :
    after (((start 0xF01E).setI 0xF00).setV 0 0xFF) (·.i) = some 0xFFF ∧
    faultOf (step (((start 0xF01E).setI 0xF01).setV 0 0xFF)) = some (.memoryOutOfRange 0x200 0x1000) := by decide

theorem test_M6_M7_glyph :
    after ((start 0xF029).setV 0 0x1A) (·.i) = some 0x082 ∧ after ((start 0xFF29).setV 0xF 0xFF) (·.i) = some 0x09B := by
  decide

theorem test_M8_M11_digits :
    after (((start 0xF033).setV 0 0xFF).setI 0x300) (fun t => (t.memRead 0x300, t.memRead 0x301, t.memRead 0x302)) =
      some (2, 5, 5) ∧
    after (((start 0xF033).setV 0 0x09).setI 0xFFD) (fun t => (t.memRead 0xFFD, t.memRead 0xFFE, t.memRead 0xFFF)) =
      some (0, 0, 9) := by decide

theorem test_M12_digits_out_of_range :
    faultOf (step ((start 0xF033).setI 0xFFE)) = some (.memoryOutOfRange 0x200 0x1000) := by decide

theorem test_M13_store :
    after (((((start 0xF255).setV 0 0x11).setV 1 0x22).setV 2 0x33).setI 0x400)
      (fun t => (t.memRead 0x400, t.memRead 0x401, t.memRead 0x402, t.memRead 0x403, t.i)) =
      some (0x11, 0x22, 0x33, 0x00, 0x400) := by decide

theorem test_M15_M16_store_out_of_range :
    faultOf (step ((start 0xFF55).setI 0xFF1)) = some (.memoryOutOfRange 0x200 0x1000) ∧
    faultOf (step ((start 0xF155).setI 0x1234)) = some (.memoryOutOfRange 0x200 0x1234) := by decide

/-- M17, on the font's glyph 0 (F0 90 90). -/
theorem test_M17_load :
    after (((start 0xF265).setV 3 0x77).setI 0x050) (fun t => (t.getV 0, t.getV 1, t.getV 2, t.getV 3, t.i)) =
      some (0xF0, 0x90, 0x90, 0x77, 0x050) := by decide

theorem test_M20_load_out_of_range :
    faultOf (step ((start 0xF165).setI 0xFFF)) = some (.memoryOutOfRange 0x200 0x1000) := by decide

/-- R53, R34: a byte written back to its value after Init leaves memory as it was after Init. -/
theorem test_memory_canonical :
    ((State.reset.memWrite 0x050 0x00).memWrite 0x050 0xF0).mem = [] ∧
    (State.reset.memWrites 0x301 [5, 0, 7]).mem = [(0x301, 5), (0x303, 7)] := by decide

/-! ### Display (vectors D1 to D10) -/

theorem test_D1_clear : after (lit (start 0x00E0) 3 3) (fun t => (t.fb.pixel 3 3, t.redraw)) = some (false, true) := by
  decide

/-- D3: glyph 0 at (62, 31) wraps on both axes. -/
theorem test_D3_wraps :
    after ((((start 0xD015).setV 0 62).setV 1 31).setI 0x050)
      (fun t => ([t.fb.pixel 62 31, t.fb.pixel 1 31, t.fb.pixel 62 0, t.fb.pixel 63 0, t.fb.pixel 1 2, t.fb.pixel 0 3],
        t.getV 0xF, t.redraw)) =
      some ([true, true, true, false, true, true], 0, true) := by decide

theorem test_D5_collides :
    after (((lit (start 0xD001) 1 0).memWrite 0x300 0xC0).setI 0x300)
      (fun t => (t.fb.pixel 0 0, t.fb.pixel 1 0, t.getV 0xF)) = some (true, false, 1) := by decide

theorem test_D6_no_rows :
    after (((start 0xD010).setI 0xFFF).setV 0xF 0x07) (fun t => (t.fb, t.getV 0xF, t.redraw)) =
      some (FrameBuffer.clear, 0, true) := by decide

theorem test_D8_out_of_range :
    faultOf (step ((start 0xD012).setI 0xFFF)) = some (.memoryOutOfRange 0x200 0x1000) := by decide

/-- D9: X = F takes the column from the old VF. -/
theorem test_D9_origin_from_old_VF :
    after ((((start 0xDF01).setV 0xF 8).memWrite 0x300 0x80).setI 0x300) (fun t => (t.fb.pixel 8 0, t.getV 0xF)) =
      some (true, 0) := by decide

/-- Against R163 law 4 as worded (log entry 30): with pixel (0, 0) on, a sprite of that one pixel collides on the first
draw and not on the second. -/
theorem test_second_draw_may_not_collide :
    ((nextOf (exec (.opDXYN 0 0 1) (((lit State.reset 0 0).memWrite 0x300 0x80).setI 0x300))).bind
      (fun t => (nextOf (exec (.opDXYN 0 0 1) (t.setV 0 0))).map (fun u => (t.getV 0xF, u.getV 0xF)))) =
      some (1, 0) := by decide

/-! ### Keys and timers (vectors K1 to K13) -/

theorem test_K1_K3_key_skips :
    after (hold ((start 0xE09E).setV 0 0x15) 5) (·.pc) = some 0x204 ∧
    after (hold ((start 0xE0A1).setV 0 0x15) 5) (·.pc) = some 0x202 := by decide

theorem test_K4_not_held : after ((start 0xE0A1).setV 0 0x03) (·.pc) = some 0x204 := by decide

theorem test_K5_K6_key_wait :
    after (start 0xF30A) (fun t => (t.pc, t.getV 3)) = some (0x200, 0x00) ∧
    after (hold (hold (start 0xFF0A) 3) 0xC) (fun t => (t.pc, t.getV 0xF)) = some (0x202, 0x03) := by decide

/-- K7: at ia = 0 PC goes back modulo 65536. -/
theorem test_K7_key_wait_at_zero : after ((at' State.reset 0).withFetchWord 16 0xF00A) (·.pc) = some 0x000 := by decide

theorem test_K8_read_delay : after ((start 0xF507).setDt 0x3C) (fun t => (t.getV 5, t.dt)) = some (0x3C, 0x3C) := by
  decide

theorem test_K9_set_delay : after ((start 0xF515).setV 5 0x3C) (·.dt) = some 0x3C := by decide

theorem test_K10_K11_sound :
    after ((start 0xF618).setV 6 0x02) (fun t => (t.st, t.soundSignal, t.tickSound.st, t.tickSound.tickSound.soundSignal)) =
      some (0x02, true, 0x01, false) := by decide

theorem test_K12_tick_delay_at_zero :
    ((State.reset.setSt 5).tickDelay.dt, (State.reset.setSt 5).tickDelay.st) = (0, 5) := by decide

/-! ### Host transactions (vectors H1 to H6) -/

theorem test_H1_init :
    let t := (transact (.init Config.default) (stacked (start 0x1234) 3)).2
    ((List.range 5).map (fun k => t.memRead (0x050 + k)), t.memRead 0x200, t.pc, t.stack) =
      ([0xF0, 0x90, 0x90, 0x90, 0xF0], 0x00, 0x200, []) := by decide

theorem test_H2_load :
    let t := (transact (.loadProgram [0x60, 0x05]) (State.reset.setV 0 0x33)).2
    (t.memRead 0x200, t.memRead 0x201, t.getV 0, t.pc) = (0x60, 0x05, 0x33, 0x200) := by decide

/-- H3, S9, at the least MEM_SIZE with room for two bytes: two fit, three do not. -/
theorem test_H3_load_overflow :
    let s : State := { State.reset with cfg := { Config.default with memSize := 0x202 } }
    (transact (.loadProgram [1, 2]) s).1 = .done ∧
    (transact (.loadProgram [1, 2, 3]) s).1 = .loadError (.loadOverflow 3) ∧
    (transact (.loadProgram [1, 2, 3]) s).2 = s := by decide

/-- P7: FX55 writes the next instruction's bytes, and the next fetch reads them. -/
theorem test_P7_self_modifying :
    (nextOf (exec (.opFX55 0x1) (((State.reset.setV 0 0x6A).setV 1 0x77).setI 0x200))).map
      (fun t => (nextOf (step t)).map (·.getV 0xA)) = some (some 0x77) := by decide

/-! ### Witnesses: states and operands that meet the statements' hypotheses -/

theorem witness_DecodedWordIsItsEncoding : decodeWord 0xD125 = some (.opDXYN 1 2 5) := by decide

theorem witness_DecoderAgreesWithOpcodeTable :
    decodeWord 0xFF65 = some (.opFX65 0xF) ∧ decodeWord 0xFF66 = none := by decide

/-- The last word of memory, and an odd PC where it may be fetched. -/
theorem witness_StepRunsDecodedInstruction :
    (at' State.reset 0xFFE).fetchable ∧ (at' State.reset 0x201).fetchable ∧ (start 0x6A2F).fetchable ∧
    decode [(start 0x6A2F).memRead 0x200, (start 0x6A2F).memRead 0x201] = .ok (.op6XNN 0xA 0x2F, []) := by decide

theorem witness_UnrecognisedWordOnlyAdvances :
    State.reset.fetchable ∧
    decode [State.reset.memRead State.reset.pc.toNat, State.reset.memRead (State.reset.pc.toNat + 1)] =
      .error (.unrecognised 0x0000) ∧
    State.reset.cfg.unknownOpcodePolicy = .nopReport ∧ (fatal State.reset).cfg.unknownOpcodePolicy = .fatal ∧
    (fatal State.reset).fetchable := by decide

/-- Clause 1 where clause 2's range test fails too; clause 2 at its boundary, under both policies. -/
theorem witness_FetchErrorsInOrder :
    let s := faultOnOdd (at' State.reset 0xFFF)
    let t := at' State.reset 0xFFF
    let u := faultOnOdd (at' State.reset 0x1000)
    (s.cfg.misalignedFetch = .fault ∧ s.pc.getLsbD 0 = true ∧ s.cfg.memSize ≤ s.pc.toNat + 1) ∧
    (¬(t.cfg.misalignedFetch = .fault ∧ t.pc.getLsbD 0 = true) ∧ t.cfg.memSize ≤ t.pc.toNat + 1) ∧
    (¬(u.cfg.misalignedFetch = .fault ∧ u.pc.getLsbD 0 = true) ∧ u.cfg.memSize ≤ u.pc.toNat + 1) := by decide

theorem witness_ErrorsArePreciseAndLeaveNoPartialEffect :
    (faultOf (step (start 0x00EE)) = some (.stackUnderflow 0x200) ∧ (start 0x00EE).fetchable) ∧
    (faultOf (step (at' State.reset 0x1000)) = some (.memoryOutOfRange 0x1000 0x1000) ∧
      ¬(at' State.reset 0x1000).fetchable) := by decide

theorem witness_CompletedInstructionReportsOk :
    (start 0x6A2F).fetch = .ok 0x6A2F ∧ decodeWord 0x6A2F = some (.op6XNN 0xA 0x2F) ∧
    ∃ t, exec (.op6XNN 0xA 0x2F) (start 0x6A2F).advance = .next t := ⟨by decide, by decide, ⟨_, rfl⟩⟩

/-- NNN at MEM_SIZE, where MEM_SIZE is the least allowed, and a draw of one row. -/
theorem witness_LoadIndexRegister :
    let s : State := { State.reset with cfg := { Config.default with memSize := 0x200 } }
    s.cfg.memSize ≤ (0x200 : Addr).toNat ∧ 1 ≤ (1 : Nibble).toNat ∧
    Instr.opDXYN 0 0 1 ∈ [Instr.opFX33 0, .opFX55 0, .opFX65 0, .opDXYN 0 0 1] := by decide

/-- Every clause: one error of each instruction that raises one. -/
theorem witness_InstructionErrorsAreThese :
    faultOf (exec .op00EE State.reset) = some (.stackUnderflow 0x1FE) ∧
    faultOf (exec (.op2NNN 0) (stacked State.reset 16)) = some (.stackOverflow 0x1FE) ∧
    faultOf (exec (.opFX1E 0) ((State.reset.setI 0xFF0).setV 0 0x10)) = some (.memoryOutOfRange 0x1FE 0x1000) ∧
    faultOf (exec (.opDXYN 0 0 2) (State.reset.setI 0xFFF)) = some (.memoryOutOfRange 0x1FE 0x1000) ∧
    faultOf (exec (.opFX33 0) (State.reset.setI 0xFFE)) = some (.memoryOutOfRange 0x1FE 0x1000) ∧
    faultOf (exec (.opFX55 1) (State.reset.setI 0xFFF)) = some (.memoryOutOfRange 0x1FE 0x1000) ∧
    faultOf (exec (.opFX65 1) (State.reset.setI 0xFFF)) = some (.memoryOutOfRange 0x1FE 0x1000) := by decide

/-- Each clause's condition at its boundary: the range just reaches MEM_SIZE = 0x1000. -/
theorem witness_OutOfRangeAccessesFault :
    (let s := (State.reset.setI 0xFF0).setV 0 0x10; s.cfg.memSize ≤ s.i.toNat + (s.getV 0).toNat) ∧
    (let s := State.reset.setI 0xFFE; s.cfg.memSize ≤ s.i.toNat + 2) ∧
    (let s := State.reset.setI 0xFF1; s.cfg.memSize ≤ s.i.toNat + (0xF : RegIx).toNat) ∧
    (let s := State.reset.setI 0x1000; 1 ≤ (1 : Nibble).toNat ∧ s.cfg.memSize ≤ s.i.toNat + (1 : Nibble).toNat - 1) := by
  decide

theorem witness_decode_clauses :
    fieldClass 0x1234 = 0x1 ∧ fieldClass 0x3342 = 0x3 ∧ fieldClass 0x4342 = 0x4 ∧ fieldClass 0x5120 = 0x5 ∧
    fieldClass 0x9120 = 0x9 ∧ fieldClass 0xB300 = 0xB ∧ fieldClass 0x6A2F = 0x6 ∧ fieldClass 0x7103 = 0x7 ∧
    (fieldClass 0x8120 = 0x8 ∧ fieldN 0x8120 = 0x0) ∧ (fieldClass 0x8AB4 = 0x8 ∧ fieldN 0x8AB4 = 0x4) ∧
    (fieldClass 0x8125 = 0x8 ∧ fieldN 0x8125 = 0x5) ∧ (fieldClass 0x8127 = 0x8 ∧ fieldN 0x8127 = 0x7) ∧
    (fieldClass 0x8126 = 0x8 ∧ fieldN 0x8126 = 0x6) ∧ (fieldClass 0x812E = 0x8 ∧ fieldN 0x812E = 0xE) ∧
    fieldClass 0xA300 = 0xA ∧ (fieldClass 0xE49E = 0xE ∧ fieldNN 0xE49E = 0x9E) ∧
    (fieldClass 0xE4A1 = 0xE ∧ fieldNN 0xE4A1 = 0xA1) ∧ (fieldClass 0xF507 = 0xF ∧ fieldNN 0xF507 = 0x07) ∧
    (fieldClass 0xF515 = 0xF ∧ fieldNN 0xF515 = 0x15) ∧ (fieldClass 0xF618 = 0xF ∧ fieldNN 0xF618 = 0x18) := by decide

/-- The last call that fits, and the full stack. -/
theorem witness_CallPushesReturnAddress :
    (stacked State.reset 15).stack.length < 16 ∧ (stacked State.reset 16).stack.length = 16 := by decide

theorem witness_ReturnPopsIntoPc :
    (stacked State.reset 16).stack = List.replicate 15 0x206 ++ [0x206] ∧ (stacked State.reset 1).stack = [] ++ [0x206] ∧
    State.reset.stack = [] := by decide

/-- BNNN's target outside memory (C19) and fetched at an even address. -/
theorem witness_IndexedJumpAddsV0 :
    let t := State.reset.setPc 0x10FE
    State.reset.cfg.memSize ≤ t.pc.toNat + 1 ∧ (State.reset.cfg.misalignedFetch = .execute ∨ t.pc.getLsbD 0 = false) := by
  decide

theorem witness_MatchedCallsAndReturnsBalance :
    (stacked State.reset 14).stack.length + [(0x300 : Addr), 0x400].length ≤ 16 := by decide

/-- X = F and another X, where the flag statements tell them apart. -/
theorem witness_flag_clauses : (0xE : RegIx) ≠ 0xF ∧ (0x0 : RegIx) ≠ 0xF ∧ (0x0 : RegIx) ≠ 0x1 := by decide

theorem witness_RandomByteIsMasked :
    (0x0F : Byte).getLsbD 7 = false ∧ (0x0F : Byte).getLsbD 0 = true ∧ (0x1 : RegIx) ≠ 0x0 := by decide

/-- M3: the sum is the last byte's address. -/
theorem witness_AddRegisterToIndex :
    let s := (State.reset.setI 0xF00).setV 0 0xFF
    s.cfg.wellFormed = true ∧ s.i.toNat + (s.getV 0).toNat < s.cfg.memSize := by decide

theorem witness_GlyphAddressOfDigit : State.reset.cfg.wellFormed = true := by decide

theorem witness_StoreDecimalDigits :
    (State.reset.setI 0xFFD).i.toNat + 2 < (State.reset.setI 0xFFD).cfg.memSize := by decide

/-- M14 and M19: the last range that fits, for X = F and X = 0. -/
theorem witness_StoreRegisters_LoadRegisters :
    (State.reset.setI 0xFF0).i.toNat + (0xF : RegIx).toNat < (State.reset.setI 0xFF0).cfg.memSize ∧
    (State.reset.setI 0xFFF).i.toNat + (0x0 : RegIx).toNat < (State.reset.setI 0xFFF).cfg.memSize := by decide

theorem witness_LoadGivesBackStoredRegisters :
    ∃ t u : State, exec (.opFX55 0xF) (State.reset.setI 0xFF0) = .next t ∧ u.mem = t.mem ∧ u.cfg = t.cfg ∧ u.i = t.i :=
  ⟨_, _, rfl, rfl, rfl, rfl⟩

theorem witness_StoredDigitsMakeUpTheByte :
    ∃ t, exec (.opFX33 0x0) ((State.reset.setI 0xFFD).setV 0 0xFF) = .next t := ⟨_, rfl⟩

theorem witness_StoredWordIsFetched :
    1 ≤ (0x1 : RegIx).toNat ∧ (∃ t, exec (.opFX55 0x1) (State.reset.setI 0xFFE) = .next t) ∧
    (faultOnOdd (State.reset.setI 0xFFE)).i.getLsbD 0 = false ∧
    (State.reset.setI 0x301).cfg.misalignedFetch = .execute := ⟨by decide, ⟨_, rfl⟩, by decide, by decide⟩

/-- N = 0 anywhere, the last byte of memory, and a pixel that is hit. -/
theorem witness_DrawFlipsTargetedPixels :
    ((0 : Nibble) = 0 ∧ (State.reset.setI 0xFFF).i.toNat + (1 : Nibble).toNat - 1 < State.reset.cfg.memSize) ∧
    (lit (State.reset.setI 0x050) 0 0).spriteHits 0 0 5 0 0 ∧ (lit (State.reset.setI 0x050) 0 0).fb.pixel 0 0 = true ∧
    ¬(State.reset.setI 0x050).spriteHits 0 0 0 0 0 := by
  refine ⟨by decide, ⟨0, by decide, 0, by decide, by decide, by decide, by decide⟩, by decide, ?_⟩
  rintro ⟨row, hrow, _⟩
  exact absurd hrow (Nat.not_lt_zero row)

/-- A first draw that collides with nothing (VF = 0) and keeps VX and VY, and one that collides (VF = 1). -/
theorem witness_SecondDrawRestoresFramebuffer :
    (nextOf (exec (.opDXYN 0 1 5) (State.reset.setI 0x050))).map (fun t => (t.getV 0, t.getV 1, t.getV 0xF)) =
      some (State.reset.getV 0, State.reset.getV 1, 0) ∧
    (nextOf (exec (.opDXYN 0 1 5) (lit (State.reset.setI 0x050) 0 0))).map (fun t => (t.getV 0, t.getV 1, t.getV 0xF)) =
      some (State.reset.getV 0, State.reset.getV 1, 1) := by decide

theorem witness_FirstDrawOnClearedScreenDoesNotCollide :
    ((nextOf (exec .op00E0 (lit (State.reset.setI 0x050) 0 0))).bind (fun t => nextOf (exec (.opDXYN 0 1 5) t))).isSome =
      true := by decide

/-- A step after which the hint is set, and one after which it is not. -/
theorem witness_RedrawExactlyAfterDisplayInstructions :
    after (start 0x00E0) (·.redraw) = some true ∧ after { start 0x6A2F with redraw := true } (·.redraw) = some false := by
  decide

theorem witness_KeySkipsTestLowNibble :
    (0x5 : BitVec 4).toNat = ((State.reset.setV 0 0x15).getV 0).toNat % 16 := by decide

theorem witness_KeyWaitTakesLowestKey :
    ((hold (hold State.reset 9) 7).keyHeld 7 = true ∧
      ∀ j : BitVec 4, j.toNat < (7 : BitVec 4).toNat → (hold (hold State.reset 9) 7).keyHeld j = false) ∧
    ∀ k : BitVec 4, State.reset.keyHeld k = false := by decide

theorem witness_KeyWaitSpinsInPlace :
    (start 0xF30A).fetch = .ok 0xF30A ∧ decodeWord 0xF30A = some (.opFX0A 3) ∧
    ∀ j : BitVec 4, (start 0xF30A).keyHeld j = false := by decide

/-- A completed execution with a register outside X's range, and a storing one. -/
theorem witness_frames :
    (∃ t, exec (.opFX65 0x2) State.reset = .next t) ∧ (0x3 : RegIx) ∉ Instr.registersWritten (.opFX65 0x2) ∧
    (∃ t, exec (.opFX55 0xF) (State.reset.setI 0x300) = .next t) ∧
    0x310 ∉ Instr.addressesStored (.opFX55 0xF) (State.reset.setI 0x300) :=
  ⟨⟨_, rfl⟩, by decide, ⟨_, rfl⟩, by decide⟩

/-- Each clause of the writers' statement: an execution that changes that piece of state. -/
theorem witness_EachStateHasItsWriters :
    ((nextOf (exec (.opANNN 1) State.reset)).map (·.i) = some 1) ∧
    ((nextOf (exec (.op2NNN 1) State.reset)).map (·.stack) = some [0x200]) ∧
    ((nextOf (exec (.opFX15 0) (State.reset.setV 0 9))).map (·.dt) = some 9) ∧
    ((nextOf (exec (.opFX18 0) (State.reset.setV 0 9))).map (·.st) = some 9) ∧
    ((nextOf (exec .op00E0 (lit State.reset 0 0))).map (·.redraw) = some true) ∧
    ((nextOf (exec (.opCXNN 0 0) State.reset)).map (·.draws) = some 1) ∧
    ((nextOf (exec (.op3XNN 0 0) State.reset)).map (·.pc) = some 0x202) := by decide

theorem witness_OnlyKeyInstructionsReadKeys :
    (∀ x, Instr.op00EE ≠ .opEX9E x ∧ Instr.op00EE ≠ .opEXA1 x ∧ Instr.op00EE ≠ .opFX0A x) ∧
    (∃ t, exec .op00EE (stacked State.reset 1) = .next t) ∧
    faultOf (exec .op00EE State.reset) = some (.stackUnderflow 0x1FE) :=
  ⟨fun _ => ⟨nofun, nofun, nofun⟩, ⟨_, rfl⟩, by decide⟩

theorem witness_NoInstructionReadsSoundTimer :
    (∃ t, exec (.opFX18 0x0) State.reset = .next t) ∧ faultOf (exec .op00EE State.reset) = some (.stackUnderflow 0x1FE) :=
  ⟨⟨_, rfl⟩, by decide⟩

/-- The invariant at its edges: 16 stack entries and the last byte of memory listed; the step completes. -/
theorem witness_StepKeepsInvariant :
    ((stacked (start 0x6A2F) 16).memWrite 0xFFF 0x01).Inv ∧
    ∃ t, step ((stacked (start 0x6A2F) 16).memWrite 0xFFF 0x01) = .next t :=
  ⟨⟨by decide, by decide, by decide, by decide⟩, ⟨_, rfl⟩⟩

theorem witness_EveryRunKeepsInvariant :
    State.reset.Inv ∧
    ∀ x ∈ [Transaction.init Config.default, .loadProgram [0x60, 0x05], .step, .tickDelay, .tickSound,
      .setKeys (Vector.replicate 16 true), .readFramebuffer, .readSound], x.admissible = true :=
  ⟨⟨by decide, by decide, by decide, by decide⟩, by decide⟩

/-- InvariantHoldsAfterInit: the least and the greatest configuration. -/
theorem witness_InvariantHoldsAfterInit :
    { Config.default with memSize := 0x200 }.wellFormed = true ∧
    { Config.default with memSize := 0x10000, fontBase := 0x1B0 }.wellFormed = true := by decide

/-- InitReplacesTheWholeState: addresses just below and just above the font table. -/
theorem witness_InitReplacesTheWholeState :
    0x04F < Config.default.fontBase ∧ Config.default.fontBase + 80 ≤ 0x0A0 := by decide

/-- The longest program that fits, and one byte more. -/
theorem witness_LoadProgramCopiesOrFails :
    (List.replicate 3584 (0x00 : Byte)).length ≤ State.reset.cfg.memSize - 0x200 ∧
    State.reset.cfg.memSize - 0x200 < (List.replicate 3585 (0x00 : Byte)).length := by
  rw [List.length_replicate, List.length_replicate]
  decide

theorem witness_FetchErrorLastsUntilInit :
    (at' State.reset 0x1000).fetch = .error (.memoryOutOfRange 0x1000 0x1000) ∧
    ∀ c, Transaction.init c ∉ [Transaction.step, .loadProgram [0x12, 0x00], .tickDelay] :=
  ⟨by decide, fun _ h => by simp at h⟩

end Sys2Proof.Tests
end

section
/-! SUPPORT. What a completed instruction can do to memory, the call stack, the configuration and the diagnostic: one
inversion of `exec`, from which the invariant of spec/00_scope.md R6, R7, spec/10_state.md R25 and
spec/20_memory.md R30, R50 and the outcome of a step (R14) follow. -/

namespace Sys2Proof.Machine

/-- What an instruction that completes from `s` leaves: it keeps memory, stack, configuration and diagnostic, or it
is a call on a stack with room, a return, or a store to bytes that exist. -/
inductive Effect (s : State) : State → Prop
  | keep {t : State} (hmem : t.mem = s.mem) (hstack : t.stack = s.stack) (hcfg : t.cfg = s.cfg)
      (hword : t.unknownWord = s.unknownWord) : Effect s t
  | call (p : Word) (hroom : s.stack.length < 16) : Effect s ({ s with stack := s.stack ++ [s.pc] }.setPc p)
  | ret (w : Word) : Effect s ({ s with stack := s.stack.dropLast }.setPc w)
  | store (a : Nat) (bs : List Byte) (hfit : a + bs.length ≤ s.cfg.memSize) : Effect s (s.memWrites a bs)

section
variable {s t : State}

theorem Effect.skipIf (p : Bool) : Effect s (s.skipIf p) :=
  .keep (s.skipIf_mem p) (s.skipIf_stack p) (s.skipIf_cfg p) (s.skipIf_unknownWord p)

/-- A checked store of at least one byte stores within memory (R54). -/
theorem Effect.of_checkRange_memWrites {a : Nat} {bs : List Byte} (hne : bs.length ≠ 0)
    (h : s.checkRange a bs.length (s.memWrites a bs) = .next t) : Effect s t := by
  obtain ⟨hrange, rfl⟩ := s.checkRange_next h
  exact .store a bs (by omega)

theorem Effect.of_exec00EE (h : exec00EE s = .next t) : Effect s t := by
  obtain ⟨w, -, rfl⟩ := s.pop_next h
  exact .ret w

theorem Effect.of_exec2NNN {nnn : Addr} (h : exec2NNN nnn s = .next t) : Effect s t := by
  obtain ⟨hroom, rfl⟩ := s.push_next h
  exact .call (addrWord nnn) hroom

theorem Effect.of_execFX0A {x : RegIx} (h : execFX0A x s = .next t) : Effect s t := by
  unfold execFX0A at h
  split at h <;> cases h <;> exact .keep rfl rfl rfl rfl

theorem Effect.of_execFX1E {x : RegIx} (h : execFX1E x s = .next t) : Effect s t := by
  simp only [execFX1E] at h
  split at h
  · cases h
    exact .keep rfl rfl rfl rfl
  · cases h

theorem Effect.of_execFX33 {x : RegIx} (h : execFX33 x s = .next t) : Effect s t :=
  .of_checkRange_memWrites (bs := bcdDigits (s.getV x)) (by simp [bcdDigits]) h

theorem Effect.of_execFX55 {x : RegIx} (h : execFX55 x s = .next t) : Effect s t :=
  .of_checkRange_memWrites (a := s.indexed 0) (bs := (regsUpTo x).map s.getV) (by simp) (by simpa [execFX55] using h)

/-- Every instruction that completes has one of the effects: the inversion of `exec`. -/
theorem exec_effect {i : Instr} (h : exec i s = .next t) : Effect s t := by
  cases i with
  | op00EE => exact .of_exec00EE h
  | op2NNN => exact .of_exec2NNN h
  | op3XNN | op4XNN | op5XY0 | op9XY0 | opEX9E | opEXA1 =>
    cases h
    exact .skipIf _
  | opDXYN =>
    obtain ⟨-, rfl⟩ := s.checkRange_next h
    exact .keep rfl rfl rfl rfl
  | opFX0A => exact .of_execFX0A h
  | opFX1E => exact .of_execFX1E h
  | opFX33 => exact .of_execFX33 h
  | opFX55 => exact .of_execFX55 h
  | opFX65 x =>
    obtain ⟨-, rfl⟩ := s.checkRange_next h
    exact .keep (s.loadRegs_mem _) (s.loadRegs_stack _) (s.loadRegs_cfg _) (s.loadRegs_unknownWord _)
  | op00E0 | op1NNN | op6XNN | op7XNN | op8XY0 | op8XY1 | op8XY2 | op8XY3 | op8XY4 | op8XY5 | op8XY6 | op8XY7
  | op8XYE | opANNN | opBNNN | opCXNN | opFX07 | opFX15 | opFX18 | opFX29 =>
    cases h
    exact .keep rfl rfl rfl rfl

/-! ### The diagnostic (R14) -/

theorem Effect.unknownWord_eq (h : Effect s t) : t.unknownWord = s.unknownWord := by
  cases h with
  | keep _ _ _ hword => exact hword
  | call | ret => rfl
  | store a bs => exact s.memWrites_unknownWord a bs

/-- A state without a diagnostic is one whose step answered ok. -/
theorem State.completed_of_unknownWord_none (h : t.unknownWord = none) : t.completed = .ok := by
  unfold State.completed
  rw [h]

/-- A step that fetches and decodes an instruction is that instruction in the advanced state (R71). -/
theorem step_of_decode {w : Word} {i : Instr} (hfetch : s.fetch = .ok w) (hdecode : decodeWord w = some i) :
    step s = exec i s.advance := by
  simp only [step, hfetch, hdecode]

/-! ### The invariant -/

/-- The invariant speaks of memory, stack and configuration alone. -/
theorem State.Inv.congr (h : s.Inv) (hmem : t.mem = s.mem) (hstack : t.stack = s.stack) (hcfg : t.cfg = s.cfg) :
    t.Inv := by
  unfold State.Inv at *
  rwa [hmem, hstack, hcfg]

theorem State.Inv.stack_le (h : s.Inv) : s.stack.length ≤ Config.stackDepth := by
  obtain ⟨-, -, -, hstack⟩ := h
  exact hstack

theorem State.Inv.with_stack (h : s.Inv) {ws : List Word} (hws : ws.length ≤ Config.stackDepth) :
    { s with stack := ws }.Inv := by
  obtain ⟨hcfg, hwf, hrange, -⟩ := h
  exact ⟨hcfg, hwf, hrange, hws⟩

theorem State.Inv.memWrites (h : s.Inv) {a : Nat} {bs : List Byte} (hfit : a + bs.length ≤ s.cfg.memSize) :
    (s.memWrites a bs).Inv := by
  obtain ⟨hcfg, hwf, hrange, hstack⟩ := h
  simp only [State.Inv, State.memWrites_cfg, State.memWrites_stack]
  refine ⟨hcfg, s.memWrites_wf a bs hwf, fun p hp => ?_, hstack⟩
  rcases s.mem_memWrites hp with hnew | hold
  · omega
  · exact hrange p hold

theorem State.Inv.advance (h : s.Inv) : s.advance.Inv := h.congr rfl rfl rfl

theorem Effect.inv (h : Effect s t) (hs : s.Inv) : t.Inv := by
  cases h with
  | keep hmem hstack hcfg => exact hs.congr hmem hstack hcfg
  | call p hroom =>
    have hpushed : { s with stack := s.stack ++ [s.pc] }.Inv := hs.with_stack (by simp [Config.stackDepth]; omega)
    exact hpushed.congr rfl rfl rfl
  | ret w =>
    have hdepth : s.stack.length ≤ Config.stackDepth := hs.stack_le
    have hpopped : { s with stack := s.stack.dropLast }.Inv := hs.with_stack (by simp; omega)
    exact hpopped.congr rfl rfl rfl
  | store a bs hfit => exact hs.memWrites hfit

end

/-- Settles O51: an unrecognised word only advances PC and reports itself; an instruction has one of the effects. -/
theorem stepKeepsInvariant : Obligations.StepKeepsInvariant := by
  intro s t hs hstep
  obtain ⟨w, -, ⟨-, -, rfl⟩ | ⟨i, -, hexec⟩⟩ := step_next hstep
  · exact hs.congr rfl rfl rfl
  · exact (exec_effect hexec).inv hs.advance

/-- Settles O11: no instruction sets the diagnostic that the advance cleared, so the outcome is ok. -/
theorem completedInstructionReportsOk : Obligations.CompletedInstructionReportsOk := by
  intro s t w i hfetch hdecode hexec
  have hnone : t.unknownWord = none := (exec_effect hexec).unknownWord_eq
  have hstep : step s = .next t := (step_of_decode hfetch hdecode).trans hexec
  rw [show transact .step s = s.stepTransaction from rfl, s.stepTransaction_next hstep,
    State.completed_of_unknownWord_none hnone]

/-- Settles O27: VX is the drawn byte AND NN, read bit by bit; the draw itself is never looked at. -/
theorem randomByteIsMasked : Obligations.RandomByteIsMasked := by
  intro s x nn
  have hbit (k : Nat) : ((s.drawByte.2.setV x (s.drawByte.1 &&& nn)).getV x).getLsbD k =
      ((Config.randomByte s.draws).getLsbD k && nn.getLsbD k) := by
    rw [State.getV_setV_same, BitVec.getLsbD_and]
    rfl
  refine ⟨_, rfl, rfl, fun k hk => ?_, fun k hk => ?_, fun r hr => ?_⟩
  · rw [hbit, hk, Bool.and_false]
  · rw [hbit, hk, Bool.and_true]
  · exact State.getV_setV_of_ne _ hr _

end Sys2Proof.Machine
end

section
/-! SUPPORT. What a completed instruction writes, piece of state by piece of state: the frame of `exec` over the access
table of spec/10_state.md R22. The writers of each piece (R23 to R29, R31, R146), the registers kept (R20, R21) and the
redraw hint of a step follow from it. -/

namespace Sys2Proof.Machine

/-! ### Registers kept (R20, R21) -/

section
variable {s t : State}

theorem keepsRegsBut_of_v_eq (h : t.v = s.v) (xs : List RegIx) : keepsRegsBut xs s t := by
  intro r _
  unfold State.getV
  rw [h]

theorem keepsRegsBut_setV (x : RegIx) (b : Byte) : keepsRegsBut [x] s (s.setV x b) :=
  fun _ hr => s.getV_setV_of_ne (List.ne_of_not_mem_cons hr) b

theorem keepsRegsBut_setResult (x : RegIx) (b : Byte) (f : Bool) : keepsRegsBut [x, vF] s (s.setResult x b f) := by
  intro r hr
  obtain ⟨hx, hF⟩ : r ≠ x ∧ r ≠ vF := by simpa using hr
  rw [State.getV_setResult, if_neg hF, if_neg hx]

theorem keepsRegsBut_showDrawing (d : Drawing) : keepsRegsBut [vF] s (s.showDrawing d) :=
  fun _ hr => State.getV_setFlag_of_ne _ (List.ne_of_not_mem_cons hr) _

theorem keepsRegsBut_loadRegs (rs : List RegIx) : keepsRegsBut rs s (s.loadRegs rs) :=
  fun _ hr => (s.getV_loadRegs rs _).trans (if_neg hr)

/-! ### The pieces of state an instruction writes (R22) -/

/-- What the instruction `i` leaves when it completes from `s`, by the pieces of state it writes, each piece with the
instructions that write it. Wherever general registers are written, they are among those of R22's table. -/
inductive Writes (i : Instr) (s : State) : State → Prop
  | registers (v : Vector Byte 16) (hregs : keepsRegsBut i.registersWritten s { s with v := v }) :
      Writes i s { s with v := v }
  | random (v : Vector Byte 16) (hregs : keepsRegsBut i.registersWritten s { s with v := v })
      (hi : ∃ x nn, i = .opCXNN x nn) : Writes i s { s with v := v, draws := s.draws + 1 }
  | display (v : Vector Byte 16) (fb : FrameBuffer) (hregs : keepsRegsBut i.registersWritten s { s with v := v })
      (hi : i = .op00E0 ∨ ∃ x y n, i = .opDXYN x y n) : Writes i s { s with v := v, fb := fb, redraw := true }
  | index (w : Word) (hi : (∃ nnn, i = .opANNN nnn) ∨ (∃ x, i = .opFX1E x) ∨ ∃ x, i = .opFX29 x) :
      Writes i s { s with i := w }
  | stack (ws : List Word) (p : Word) (hi : i = .op00EE ∨ ∃ nnn, i = .op2NNN nnn) :
      Writes i s { s with stack := ws, pc := p }
  | jump (p : Word) (hi : (∃ nnn, i = .op1NNN nnn ∨ i = .opBNNN nnn) ∨ ∃ x, i = .opFX0A x) :
      Writes i s { s with pc := p }
  | skip (p : Bool) (hi : (∃ x nn, i = .op3XNN x nn ∨ i = .op4XNN x nn) ∨ (∃ x y, i = .op5XY0 x y ∨ i = .op9XY0 x y) ∨
      ∃ x, i = .opEX9E x ∨ i = .opEXA1 x) : Writes i s (s.skipIf p)
  | delayTimer (b : Byte) (hi : ∃ x, i = .opFX15 x) : Writes i s { s with dt := b }
  | soundTimer (b : Byte) (hi : ∃ x, i = .opFX18 x) : Writes i s { s with st := b }
  | memory (m : List Host.Cell) : Writes i s { s with mem := m }

theorem Writes.of_exec00EE (h : exec00EE s = .next t) : Writes .op00EE s t := by
  obtain ⟨w, -, rfl⟩ := s.pop_next h
  exact .stack _ w (.inl rfl)

theorem Writes.of_exec2NNN {nnn : Addr} (h : exec2NNN nnn s = .next t) : Writes (.op2NNN nnn) s t := by
  obtain ⟨-, rfl⟩ := s.push_next h
  exact .stack _ (addrWord nnn) (.inr ⟨nnn, rfl⟩)

theorem Writes.of_execFX0A {x : RegIx} (h : execFX0A x s = .next t) : Writes (.opFX0A x) s t := by
  unfold execFX0A at h
  split at h
  · cases h
    exact .registers _ (keepsRegsBut_setV x _)
  · cases h
    exact .jump _ (.inr ⟨x, rfl⟩)

theorem Writes.of_execFX1E {x : RegIx} (h : execFX1E x s = .next t) : Writes (.opFX1E x) s t := by
  simp only [execFX1E] at h
  split at h
  · cases h
    exact .index _ (.inr (.inl ⟨x, rfl⟩))
  · cases h

/-- Stores behind a passed range check write memory alone (R54, R57). -/
theorem Writes.of_checkRange_memWrites {i : Instr} {a n : Nat} {bs : List Byte}
    (h : s.checkRange a n (s.memWrites a bs) = .next t) : Writes i s t := by
  obtain ⟨-, rfl⟩ := s.checkRange_next h
  rw [State.memWrites_eq]
  exact .memory _

theorem Writes.of_execFX65 {x : RegIx} (h : execFX65 x s = .next t) : Writes (.opFX65 x) s t := by
  obtain ⟨-, rfl⟩ := s.checkRange_next h
  have hregs : keepsRegsBut (regsUpTo x) s (s.loadRegs (regsUpTo x)) := keepsRegsBut_loadRegs _
  rw [State.loadRegs_eq] at hregs ⊢
  exact .registers _ hregs

/-- Every instruction that completes writes as the table says: the frame of `exec`. -/
theorem exec_writes {i : Instr} (h : exec i s = .next t) : Writes i s t := by
  cases i with
  | op00E0 =>
    cases h
    exact .display s.v _ (keepsRegsBut_of_v_eq rfl _) (.inl rfl)
  | op00EE => exact .of_exec00EE h
  | op1NNN nnn =>
    cases h
    exact .jump _ (.inl ⟨nnn, .inl rfl⟩)
  | op2NNN => exact .of_exec2NNN h
  | op3XNN x nn =>
    cases h
    exact .skip _ (.inl ⟨x, nn, .inl rfl⟩)
  | op4XNN x nn =>
    cases h
    exact .skip _ (.inl ⟨x, nn, .inr rfl⟩)
  | op5XY0 x y =>
    cases h
    exact .skip _ (.inr (.inl ⟨x, y, .inl rfl⟩))
  | op9XY0 x y =>
    cases h
    exact .skip _ (.inr (.inl ⟨x, y, .inr rfl⟩))
  | opEX9E x =>
    cases h
    exact .skip _ (.inr (.inr ⟨x, .inl rfl⟩))
  | opEXA1 x =>
    cases h
    exact .skip _ (.inr (.inr ⟨x, .inr rfl⟩))
  | op6XNN x | op7XNN x | op8XY0 x | op8XY1 x | op8XY2 x | op8XY3 x | opFX07 x =>
    cases h
    exact .registers _ (keepsRegsBut_setV x _)
  | op8XY4 x | op8XY5 x | op8XY6 x | op8XY7 x | op8XYE x =>
    cases h
    exact .registers _ (keepsRegsBut_setResult x _ _)
  | opANNN nnn =>
    cases h
    exact .index _ (.inl ⟨nnn, rfl⟩)
  | opBNNN nnn =>
    cases h
    exact .jump _ (.inl ⟨nnn, .inr rfl⟩)
  | opCXNN x nn =>
    cases h
    exact .random _ (keepsRegsBut_setV x _) ⟨x, nn, rfl⟩
  | opDXYN x y n =>
    obtain ⟨-, rfl⟩ := s.checkRange_next h
    exact .display _ _ (keepsRegsBut_showDrawing _) (.inr ⟨x, y, n, rfl⟩)
  | opFX0A => exact .of_execFX0A h
  | opFX15 x =>
    cases h
    exact .delayTimer _ ⟨x, rfl⟩
  | opFX18 x =>
    cases h
    exact .soundTimer _ ⟨x, rfl⟩
  | opFX1E => exact .of_execFX1E h
  | opFX29 x =>
    cases h
    exact .index _ (.inr (.inr ⟨x, rfl⟩))
  | opFX33 | opFX55 => exact .of_checkRange_memWrites h
  | opFX65 => exact .of_execFX65 h

/-! ### The writers of each piece -/

variable {i : Instr}

theorem Writes.keepsRegs (h : Writes i s t) : keepsRegsBut i.registersWritten s t := by
  cases h with
  | registers _ hregs | random _ hregs | display _ _ hregs => exact hregs
  | skip p => exact keepsRegsBut_of_v_eq (s.skipIf_v p) _
  | index | stack | jump | delayTimer | soundTimer | memory => exact keepsRegsBut_of_v_eq rfl _

theorem Writes.index_writer (h : Writes i s t) (hne : t.i ≠ s.i) :
    (∃ nnn, i = .opANNN nnn) ∨ (∃ x, i = .opFX1E x) ∨ ∃ x, i = .opFX29 x := by
  cases h with
  | index _ hi => exact hi
  | skip p => exact absurd (s.skipIf_i p) hne
  | registers | random | display | stack | jump | delayTimer | soundTimer | memory => exact absurd rfl hne

theorem Writes.stack_writer (h : Writes i s t) (hne : t.stack ≠ s.stack) : i = .op00EE ∨ ∃ nnn, i = .op2NNN nnn := by
  cases h with
  | stack _ _ hi => exact hi
  | skip p => exact absurd (s.skipIf_stack p) hne
  | registers | random | display | index | jump | delayTimer | soundTimer | memory => exact absurd rfl hne

theorem Writes.delayTimer_writer (h : Writes i s t) (hne : t.dt ≠ s.dt) : ∃ x, i = .opFX15 x := by
  cases h with
  | delayTimer _ hi => exact hi
  | skip p => exact absurd (s.skipIf_dt p) hne
  | registers | random | display | index | stack | jump | soundTimer | memory => exact absurd rfl hne

theorem Writes.soundTimer_writer (h : Writes i s t) (hne : t.st ≠ s.st) : ∃ x, i = .opFX18 x := by
  cases h with
  | soundTimer _ hi => exact hi
  | skip p => exact absurd (s.skipIf_st p) hne
  | registers | random | display | index | stack | jump | delayTimer | memory => exact absurd rfl hne

theorem Writes.display_writer (h : Writes i s t) (hne : t.fb ≠ s.fb ∨ t.redraw ≠ s.redraw) :
    i = .op00E0 ∨ ∃ x y n, i = .opDXYN x y n := by
  cases h with
  | display _ _ _ hi => exact hi
  | skip p => exact hne.elim (absurd (s.skipIf_fb p)) (absurd (s.skipIf_redraw p))
  | registers | random | index | stack | jump | delayTimer | soundTimer | memory =>
    exact hne.elim (absurd rfl) (absurd rfl)

theorem Writes.draws_writer (h : Writes i s t) (hne : t.draws ≠ s.draws) : ∃ x nn, i = .opCXNN x nn := by
  cases h with
  | random _ _ hi => exact hi
  | skip p => exact absurd (s.skipIf_draws p) hne
  | registers | display | index | stack | jump | delayTimer | soundTimer | memory => exact absurd rfl hne

theorem State.skipIf_pc_of_ne {p : Bool} (hne : (s.skipIf p).pc ≠ s.pc) : (s.skipIf p).pc = s.pc + 2 := by
  cases p with
  | true => rfl
  | false => exact absurd rfl hne

theorem Writes.pc_writer (h : Writes i s t) (hne : t.pc ≠ s.pc) :
    i = .op00EE ∨ (∃ nnn, i = .op1NNN nnn ∨ i = .op2NNN nnn ∨ i = .opBNNN nnn) ∨ (∃ x, i = .opFX0A x) ∨
      (t.pc = s.pc + 2 ∧ ((∃ x nn, i = .op3XNN x nn ∨ i = .op4XNN x nn) ∨
        (∃ x y, i = .op5XY0 x y ∨ i = .op9XY0 x y) ∨ ∃ x, i = .opEX9E x ∨ i = .opEXA1 x)) := by
  cases h with
  | stack _ _ hi => exact hi.imp_right fun ⟨nnn, hcall⟩ => .inl ⟨nnn, .inr (.inl hcall)⟩
  | jump _ hi => exact .inr (hi.imp (fun ⟨nnn, hjump⟩ => ⟨nnn, hjump.imp_right .inr⟩) .inl)
  | skip p hi => exact .inr (.inr (.inr ⟨State.skipIf_pc_of_ne hne, hi⟩))
  | registers | random | display | index | delayTimer | soundTimer | memory => exact absurd rfl hne

/-- No instruction writes the keys, the configuration or the diagnostic. -/
theorem Writes.keeps_key_cfg_unknownWord (h : Writes i s t) :
    t.key = s.key ∧ t.cfg = s.cfg ∧ t.unknownWord = s.unknownWord := by
  cases h with
  | skip p => exact ⟨s.skipIf_key p, s.skipIf_cfg p, s.skipIf_unknownWord p⟩
  | registers | random | display | index | stack | jump | delayTimer | soundTimer | memory => exact ⟨rfl, rfl, rfl⟩

/-- The display instructions set the redraw hint when they complete (R161, R162). -/
theorem exec_display_redraw (h : exec i s = .next t) (hi : i = .op00E0 ∨ ∃ x y n, i = .opDXYN x y n) :
    t.redraw = true := by
  obtain rfl | ⟨x, y, n, rfl⟩ := hi
  · cases h
    rfl
  · obtain ⟨-, rfl⟩ := s.checkRange_next h
    rfl

/-- From a cleared hint, the hint after an instruction says whether it was a display instruction. -/
theorem exec_redraw_iff (h : exec i s = .next t) (hclear : s.redraw = false) :
    t.redraw = true ↔ i = .op00E0 ∨ ∃ x y n, i = .opDXYN x y n :=
  ⟨fun hset => (exec_writes h).display_writer (.inr (by simp [hset, hclear])), exec_display_redraw h⟩

end

/-- Settles O46: the register frame of the access table. -/
theorem registersOutsideTheTableAreKept : Obligations.RegistersOutsideTheTableAreKept :=
  fun _ _ _ h => (exec_writes h).keepsRegs

/-- Settles O48: each piece of state by its writers. -/
theorem eachStateHasItsWriters : Obligations.EachStateHasItsWriters := by
  intro i s t h
  have hw : Writes i s t := exec_writes h
  exact ⟨hw.index_writer, hw.stack_writer, hw.delayTimer_writer, hw.soundTimer_writer, hw.display_writer,
    hw.draws_writer, hw.pc_writer, hw.keeps_key_cfg_unknownWord⟩

/-- Settles O41: the advance clears the hint; an unrecognised word leaves it clear, and of the instructions the display
ones alone set it. -/
theorem redrawExactlyAfterDisplayInstructions : Obligations.RedrawExactlyAfterDisplayInstructions := by
  intro s t hstep
  obtain ⟨w, hfetch, ⟨hnone, -, rfl⟩ | ⟨i, hdecode, hexec⟩⟩ := step_next hstep
  · simp [hfetch, hnone]
  · simpa [hfetch, hdecode] using exec_redraw_iff hexec s.advance_redraw

end Sys2Proof.Machine
end

section
/-! SUPPORT. What no instruction reads: the sound timer (spec/10_state.md R27), and but for the three key instructions
the keys (R29). An instruction executed with other keys and another ST answers what it answered, with these in place. -/

namespace Sys2Proof.Machine

/-- A result with its next state changed by `g`; an error stays as it is. -/
def mapNext (g : State → State) : Result → Result
  | .next t => .next (g t)
  | .fault f => .fault f
  | .refused r => .refused r

@[simp] theorem mapNext_next (g : State → State) (t : State) : mapNext g (.next t) = .next (g t) := rfl
@[simp] theorem mapNext_fault (g : State → State) (f : Fault) : mapNext g (.fault f) = .fault f := rfl

/-- The state with these keys held and this sound timer, all else as it was. -/
def State.withKeysSound (k : Vector Bool 16) (b : Byte) (s : State) : State := { s with key := k, st := b }

section
variable {s : State} {k : Vector Bool 16} {b : Byte}

theorem State.skipIf_withKeysSound (p : Bool) : (s.withKeysSound k b).skipIf p = (s.skipIf p).withKeysSound k b := by
  cases p <;> rfl

theorem State.memWrites_withKeysSound (a : Nat) (bs : List Byte) :
    (s.withKeysSound k b).memWrites a bs = (s.memWrites a bs).withKeysSound k b := by
  induction bs generalizing s a with
  | nil => rfl
  | cons c bs ih => exact ih (s := s.memWrite a c) (a + 1)

theorem State.loadRegs_withKeysSound (rs : List RegIx) :
    (s.withKeysSound k b).loadRegs rs = (s.loadRegs rs).withKeysSound k b := by
  induction rs generalizing s with
  | nil => rfl
  | cons r rs ih => exact ih (s := s.setV r (s.memRead (s.indexed r.toNat)))

theorem State.checkRange_withKeysSound (a n : Nat) (t : State) :
    (s.withKeysSound k b).checkRange a n (t.withKeysSound k b) = mapNext (withKeysSound k b) (s.checkRange a n t) := by
  simp only [State.checkRange, apply_ite (mapNext _)]
  rfl

theorem execDXYN_withKeysSound (x y : RegIx) (n : Nibble) :
    execDXYN x y n (s.withKeysSound k b) = mapNext (State.withKeysSound k b) (execDXYN x y n s) :=
  State.checkRange_withKeysSound (s.indexed 0) n.toNat (s.showDrawing (s.drawSprite (s.originX x) (s.originY y) n.toNat))

theorem exec00EE_withKeysSound : exec00EE (s.withKeysSound k b) = mapNext (State.withKeysSound k b) (exec00EE s) := by
  unfold exec00EE State.pop
  simp only [State.withKeysSound]
  split <;> rfl

theorem exec2NNN_withKeysSound (nnn : Addr) :
    exec2NNN nnn (s.withKeysSound k b) = mapNext (State.withKeysSound k b) (exec2NNN nnn s) := by
  simp only [exec2NNN, State.push, apply_ite (mapNext _)]
  rfl

theorem execFX1E_withKeysSound (x : RegIx) :
    execFX1E x (s.withKeysSound k b) = mapNext (State.withKeysSound k b) (execFX1E x s) := by
  simp only [execFX1E, apply_ite (mapNext _)]
  rfl

/-- With the same keys held, FX0A scans to the same key. -/
theorem execFX0A_withSound (x : RegIx) :
    execFX0A x (s.withKeysSound s.key b) = mapNext (State.withKeysSound s.key b) (execFX0A x s) := by
  have hscan : (s.withKeysSound s.key b).lowestKey = s.lowestKey := rfl
  unfold execFX0A
  rw [hscan]
  split <;> rfl

theorem execFX33_withKeysSound (x : RegIx) :
    execFX33 x (s.withKeysSound k b) = mapNext (State.withKeysSound k b) (execFX33 x s) := by
  rw [execFX33, State.memWrites_withKeysSound]
  exact State.checkRange_withKeysSound _ _ _

theorem execFX55_withKeysSound (x : RegIx) :
    execFX55 x (s.withKeysSound k b) = mapNext (State.withKeysSound k b) (execFX55 x s) := by
  rw [execFX55, State.memWrites_withKeysSound]
  exact State.checkRange_withKeysSound _ _ _

theorem execFX65_withKeysSound (x : RegIx) :
    execFX65 x (s.withKeysSound k b) = mapNext (State.withKeysSound k b) (execFX65 x s) := by
  rw [execFX65, State.loadRegs_withKeysSound]
  exact State.checkRange_withKeysSound _ _ _

/-- Non-interference of the keys and ST: with other keys, unless the instruction is one that reads them, and with
another ST, unless it is FX18, the instruction answers the same result with these in place. -/
theorem exec_withKeysSound {i : Instr}
    (hkey : (∀ x, i ≠ .opEX9E x ∧ i ≠ .opEXA1 x ∧ i ≠ .opFX0A x) ∨ k = s.key) (hst : ∀ x, i ≠ .opFX18 x) :
    exec i (s.withKeysSound k b) = mapNext (State.withKeysSound k b) (exec i s) := by
  cases i with
  | op00EE => exact exec00EE_withKeysSound
  | op2NNN nnn => exact exec2NNN_withKeysSound nnn
  | op3XNN | op4XNN | op5XY0 | op9XY0 => exact congrArg _ (State.skipIf_withKeysSound _)
  | opEX9E x =>
    obtain rfl : k = s.key := hkey.resolve_left fun h => let ⟨hne, _⟩ := h x; hne rfl
    exact congrArg _ (State.skipIf_withKeysSound _)
  | opEXA1 x =>
    obtain rfl : k = s.key := hkey.resolve_left fun h => let ⟨_, hne, _⟩ := h x; hne rfl
    exact congrArg _ (State.skipIf_withKeysSound _)
  | opFX0A x =>
    obtain rfl : k = s.key := hkey.resolve_left fun h => let ⟨_, _, hne⟩ := h x; hne rfl
    exact execFX0A_withSound x
  | opDXYN x y n => exact execDXYN_withKeysSound x y n
  | opFX18 x => exact absurd rfl (hst x)
  | opFX1E x => exact execFX1E_withKeysSound x
  | opFX33 x => exact execFX33_withKeysSound x
  | opFX55 x => exact execFX55_withKeysSound x
  | opFX65 x => exact execFX65_withKeysSound x
  | op00E0 | op1NNN | op6XNN | op7XNN | op8XY0 | op8XY1 | op8XY2 | op8XY3 | op8XY4 | op8XY5 | op8XY6 | op8XY7
  | op8XYE | opANNN | opBNNN | opCXNN | opFX07 | opFX15 | opFX29 => rfl

end

/-- Settles O49: with ST left as it is, ST is written by FX18 alone, and FX18 reads no key. -/
theorem onlyKeyInstructionsReadKeys : Obligations.OnlyKeyInstructionsReadKeys := by
  intro i s k hkey
  by_cases hst : ∃ x, i = .opFX18 x
  · obtain ⟨x, rfl⟩ := hst
    exact ⟨fun t h => by cases h; rfl, fun f h => by cases h⟩
  · have hexec : exec i { s with key := k } = mapNext (State.withKeysSound k s.st) (exec i s) :=
      exec_withKeysSound (.inl hkey) fun x hx => hst ⟨x, hx⟩
    refine ⟨fun t h => ?_, fun f h => by rw [hexec, h, mapNext_fault]⟩
    have hkept : t.st = s.st := by_contra fun hne => hst ((exec_writes h).soundTimer_writer hne)
    rw [hexec, h, mapNext_next, State.withKeysSound, ← hkept]

/-- Settles O50: FX18 overwrites ST, and every other instruction carries it along; the keys are left as they are. -/
theorem noInstructionReadsSoundTimer : Obligations.NoInstructionReadsSoundTimer := by
  intro i s b
  by_cases hst : ∃ x, i = .opFX18 x
  · obtain ⟨x, rfl⟩ := hst
    exact ⟨fun t h => ⟨t, h, rfl⟩, fun f h => h⟩
  · have hexec : exec i { s with st := b } = mapNext (State.withKeysSound s.key b) (exec i s) :=
      exec_withKeysSound (.inr rfl) fun x hx => hst ⟨x, hx⟩
    refine ⟨fun t h => ⟨_, by rw [hexec, h, mapNext_next], ?_⟩, fun f h => by rw [hexec, h, mapNext_fault]⟩
    obtain ⟨hkept, -, -⟩ := (exec_writes h).keeps_key_cfg_unknownWord
    rw [State.withKeysSound, ← hkept]

end Sys2Proof.Machine
end

section
/-! SUPPORT. The state after Init (spec/10_state.md R34, spec/70_reset_and_hazards.md R240, R241). -/

namespace Sys2Proof.Machine

@[simp] theorem State.getV_init (c : Config) (n : Nat) (r : RegIx) : (State.init c n).getV r = 0x00 :=
  Vector.getElem_replicate _

@[simp] theorem State.keyHeld_init (c : Config) (n : Nat) (q : BitVec 4) : (State.init c n).keyHeld q = false :=
  Vector.getElem_replicate _

@[simp] theorem State.pixel_init (c : Config) (n : Nat) (x : Fin 64) (y : Fin 32) :
    (State.init c n).fb.pixel x y = false :=
  FrameBuffer.pixel_clear x y

theorem State.init_inv {c : Config} (hc : c.wellFormed = true) (n : Nat) : (State.init c n).Inv :=
  ⟨hc, State.init_mem_wf c n, fun _ hp => absurd hp List.not_mem_nil, Nat.zero_le _⟩

/-- Settles O52: reset is Init with the default configuration, which keeps its constraints. -/
theorem invariantHoldsAfterInit : Obligations.InvariantHoldsAfterInit :=
  ⟨State.init_inv (by decide) 0, fun _ n hc => State.init_inv hc n⟩

/-- Settles O54: memory lists nothing after Init, so each byte reads as its initial value. -/
theorem initReplacesTheWholeState : Obligations.InitReplacesTheWholeState := by
  intro c s
  have hfont (j : Fin 80) : (State.init c s.draws).memRead (c.fontBase + j) = c.fontData[j] := Memory.initial_font c j
  have hzero (a : Nat) (ha : a < c.fontBase ∨ c.fontBase + 80 ≤ a) : (State.init c s.draws).memRead a = 0 :=
    Memory.initial_outside ha
  exact ⟨State.init c s.draws, rfl, rfl, State.getV_init c _, rfl, rfl, rfl, rfl, State.pixel_init c _,
    State.keyHeld_init c _, rfl, hfont, hzero, rfl, rfl, rfl, rfl⟩

end Sys2Proof.Machine
end

section
/-! SUPPORT. Memory as instructions use it (spec/20_memory.md): the word at PC that a step fetches and runs (R55, R71 to
R73), the range check of an access through I (R54, R140), and the bytes an instruction stores (R57, R64, R144). -/

namespace Sys2Proof.Machine

section
variable {s t : State}

/-! ### The word at PC (R55, R72) -/

/-- Two bytes decode to the instruction of their word, the first the most significant. -/
theorem decode_pair_ok_iff {hi lo : Byte} {i : Instr} :
    decode [hi, lo] = .ok (i, []) ↔ decodeWord (wordOfBytes hi lo) = some i := by
  cases hword : decodeWord (wordOfBytes hi lo) <;> simp [decode, hword]

/-- Under a policy and a PC that allow the fetch, with both bytes in memory, it answers their word (R72). -/
theorem State.fetch_of_fetchable (h : s.fetchable) :
    s.fetch = .ok (wordOfBytes (s.memRead s.pc.toNat) (s.memRead (s.pc.toNat + 1))) := by
  obtain ⟨hodd, hfit⟩ := h
  have halign : ¬(s.cfg.misalignedFetch = .fault ∧ s.pc.getLsbD 0 = true) := by
    rintro ⟨hfault, hset⟩
    exact absurd hodd (by rw [hfault, hset]; decide)
  rw [State.fetch, if_neg halign, if_pos hfit]

/-! ### Accesses through I (R54) -/

@[simp] theorem toNat_addrWord (nnn : Addr) : (addrWord nnn).toNat = nnn.toNat := by
  unfold addrWord
  exact BitVec.toNat_setWidth_of_le (by decide)

/-- A non-empty access through an I outside memory fails its check at I itself. -/
theorem State.checkRange_index_outside {n : Nat} (hn : n ≠ 0) (h : s.cfg.memSize ≤ s.i.toNat) (u : State) :
    s.checkRange (s.indexed 0) n u = .fault (.memoryOutOfRange (s.pc - 2) s.i.toNat) := by
  have hI : s.indexed 0 = s.i.toNat := s.indexed_eq 0
  rw [s.checkRange_fail hn (by omega), hI, Nat.max_eq_left h]

/-- Every instruction that accesses memory through I raises MemoryOutOfRange at an I outside memory. -/
theorem exec_fault_of_index_outside (h : s.cfg.memSize ≤ s.i.toNat) (x y : RegIx) {n : Nibble} (hn : 1 ≤ n.toNat) :
    ∀ i ∈ [Instr.opFX33 x, .opFX55 x, .opFX65 x, .opDXYN x y n],
      exec i s = .fault (.memoryOutOfRange (s.pc - 2) s.i.toNat) := by
  simp only [List.forall_mem_cons, List.not_mem_nil, false_imp_iff, implies_true, and_true]
  exact ⟨State.checkRange_index_outside (by decide) h _, State.checkRange_index_outside (Nat.succ_ne_zero _) h _,
    State.checkRange_index_outside (Nat.succ_ne_zero _) h _, State.checkRange_index_outside (by omega) h _⟩

/-! ### The bytes an instruction stores (R57) -/

theorem execFX1E_next {x : RegIx} (h : execFX1E x s = .next t) :
    s.indexed (s.getV x).toNat < s.cfg.memSize ∧ t = s.setI (BitVec.ofNat 16 (s.indexed (s.getV x).toNat)) := by
  simp only [execFX1E] at h
  split at h
  · cases h
    exact ⟨‹_›, rfl⟩
  · cases h

theorem execFX0A_next {x : RegIx} (h : execFX0A x s = .next t) :
    (∃ k, s.lowestKey = some k ∧ t = s.setV x (k.zeroExtend 8)) ∨ (s.lowestKey = none ∧ t = s.setPc (s.pc - 2)) := by
  unfold execFX0A at h
  split at h
  · cases h
    exact .inl ⟨_, ‹_›, rfl⟩
  · cases h
    exact .inr ⟨‹_›, rfl⟩

/-- An instruction that completes leaves memory alone, or it is a store: bytes written from I on, at the addresses the
instruction is said to store to. -/
theorem exec_stores {i : Instr} (h : exec i s = .next t) :
    t.mem = s.mem ∨ ∃ bs : List Byte, t = s.memWrites (s.indexed 0) bs ∧
      i.addressesStored s = (List.range bs.length).map s.indexed := by
  cases i with
  | opFX33 x =>
    obtain ⟨-, rfl⟩ := s.checkRange_next h
    exact .inr ⟨bcdDigits (s.getV x), rfl, rfl⟩
  | opFX55 x =>
    obtain ⟨-, rfl⟩ := s.checkRange_next h
    exact .inr ⟨(regsUpTo x).map s.getV, rfl, by rw [List.length_map, length_regsUpTo]; rfl⟩
  | op00EE =>
    obtain ⟨w, -, rfl⟩ := s.pop_next (show exec00EE s = .next t from h)
    exact .inl rfl
  | op2NNN nnn =>
    obtain ⟨-, rfl⟩ := s.push_next (show exec2NNN nnn s = .next t from h)
    exact .inl rfl
  | op3XNN | op4XNN | op5XY0 | op9XY0 | opEX9E | opEXA1 =>
    cases h
    exact .inl (s.skipIf_mem _)
  | opDXYN =>
    obtain ⟨-, rfl⟩ := s.checkRange_next h
    exact .inl rfl
  | opFX0A =>
    obtain ⟨k, -, rfl⟩ | ⟨-, rfl⟩ := execFX0A_next h
    · exact .inl rfl
    · exact .inl rfl
  | opFX1E =>
    obtain ⟨-, rfl⟩ := execFX1E_next h
    exact .inl rfl
  | opFX65 =>
    obtain ⟨-, rfl⟩ := s.checkRange_next h
    exact .inl (s.loadRegs_mem _)
  | op00E0 | op1NNN | op6XNN | op7XNN | op8XY0 | op8XY1 | op8XY2 | op8XY3 | op8XY4 | op8XY5 | op8XY6 | op8XY7
  | op8XYE | opANNN | opBNNN | opCXNN | opFX07 | opFX15 | opFX18 | opFX29 =>
    cases h
    exact .inl rfl

theorem keepsBytesBut_of_mem_eq (hmem : t.mem = s.mem) (hcfg : t.cfg = s.cfg) (as : List Nat) :
    keepsBytesBut as s t := by
  intro a _
  rw [State.memRead, hmem, hcfg, ← State.memRead]

/-- Bytes written from I on change no byte but those at I, I + 1 and so on, as many as are written. -/
theorem keepsBytesBut_memWrites_indexed (bs : List Byte) :
    keepsBytesBut ((List.range bs.length).map s.indexed) s (s.memWrites (s.indexed 0) bs) := by
  intro a ha
  rw [State.memRead_memWrites, dif_neg]
  rintro ⟨hle, hlt⟩
  have hoffset : s.indexed (a - s.indexed 0) = a := by simp only [State.indexed_eq] at *; omega
  exact ha (List.mem_map.2 ⟨_, List.mem_range.2 hlt, hoffset⟩)

/-! ### The registers in memory after FX55 (R144) -/

/-- After FX55's stores the byte at I + r is Vr, for each register up to VX. -/
theorem State.memRead_storeRegs {x r : RegIx} (h : r.toNat ≤ x.toNat) :
    (s.memWrites (s.indexed 0) ((regsUpTo x).map s.getV)).memRead (s.i.toNat + r.toNat) = s.getV r := by
  have hstored : s.indexed 0 ≤ s.i.toNat + r.toNat ∧
      s.i.toNat + r.toNat - s.indexed 0 < ((regsUpTo x).map s.getV).length := by
    simp only [State.indexed_eq, List.length_map, length_regsUpTo]
    omega
  rw [State.memRead_memWrites, dif_pos hstored]
  simp [State.indexed_eq, regsUpTo]

end

/-- Settles O6: the fetch answers the word of the two bytes, and their decoding is that word's. -/
theorem stepRunsDecodedInstruction : Obligations.StepRunsDecodedInstruction :=
  fun _ _ hfetch hdecode => step_of_decode (State.fetch_of_fetchable hfetch) (decode_pair_ok_iff.1 hdecode)

/-- Settles O28: ANNN checks nothing, and an access through the I it leaves fails its range check at NNN. -/
theorem loadIndexRegister : Obligations.LoadIndexRegister := by
  refine ⟨fun w hw => by simp [decodeWord, hw], fun s nnn => ?_⟩
  have hI : (s.setI (addrWord nnn)).i.toNat = nnn.toNat := toNat_addrWord nnn
  refine ⟨s.setI (addrWord nnn), rfl, hI, rfl, fun hout x y n hn => ?_⟩
  have hfault := exec_fault_of_index_outside (s := s.setI (addrWord nnn)) (hI ▸ hout) x y hn
  rwa [hI] at hfault

/-- Settles O36: FX55 has checked that its bytes exist, and the first two of them are V0 and V1. -/
theorem storedWordIsFetched : Obligations.StoredWordIsFetched := by
  intro s t x hx hexec halign
  obtain ⟨hrange, hstore⟩ := s.checkRange_next hexec
  have hcfg : t.cfg = s.cfg := by rw [hstore, State.memWrites_cfg]
  have hfit : s.i.toNat + 1 < s.cfg.memSize := by
    have hI : s.indexed 0 = s.i.toNat := s.indexed_eq 0
    omega
  have hhigh : t.memRead s.i.toNat = s.getV 0 := hstore ▸ State.memRead_storeRegs (r := 0) (Nat.zero_le _)
  have hlow : t.memRead (s.i.toNat + 1) = s.getV 1 := hstore ▸ State.memRead_storeRegs (r := 1) hx
  have hfetchable : (t.setPc s.i).fetchable := ⟨by rwa [State.setPc_cfg, hcfg], by rwa [State.setPc_cfg, hcfg]⟩
  calc (t.setPc s.i).fetch
    _ = .ok (wordOfBytes (t.memRead s.i.toNat) (t.memRead (s.i.toNat + 1))) := State.fetch_of_fetchable hfetchable
    _ = .ok (s.getV 0 ++ s.getV 1) := by rw [hhigh, hlow, wordOfBytes]

/-- Settles O47: an instruction leaves memory alone or stores at its own addresses. -/
theorem memoryOutsideTheStoresIsKept : Obligations.MemoryOutsideTheStoresIsKept := by
  intro i s t hexec
  obtain hmem | ⟨bs, rfl, haddr⟩ := exec_stores hexec
  · obtain ⟨-, hcfg, -⟩ := (exec_writes hexec).keeps_key_cfg_unknownWord
    exact keepsBytesBut_of_mem_eq hmem hcfg _
  · rw [haddr]
    exact keepsBytesBut_memWrites_indexed bs

end Sys2Proof.Machine
end

section
/-! SUPPORT. The decoder and the encoder against each other and against the opcode table (spec/30_encoding.md R74 to
R82): one equation per instruction class, the words of each class that decode, and the two directions of the round
trip. -/

namespace Sys2Proof

section
variable {w : Word} {i : Instr}

/-! ### The opcode map class by class (R76) -/

theorem decodeWord_class0 (h : fieldClass w = 0x0) : decodeWord w = decodeClass0 w := by
  simp [decodeWord, h]

theorem decodeWord_class5 (h : fieldClass w = 0x5) :
    decodeWord w = if fieldN w = 0 then some (.op5XY0 (fieldX w) (fieldY w)) else none := by
  simp [decodeWord, h]

theorem decodeWord_class8 (h : fieldClass w = 0x8) :
    decodeWord w = decodeClass8 (fieldX w) (fieldY w) (fieldN w) := by
  simp [decodeWord, h]

theorem decodeWord_class9 (h : fieldClass w = 0x9) :
    decodeWord w = if fieldN w = 0 then some (.op9XY0 (fieldX w) (fieldY w)) else none := by
  simp [decodeWord, h]

theorem decodeWord_classB (h : fieldClass w = 0xB) : decodeWord w = some (.opBNNN (fieldNNN w)) := by
  simp [decodeWord, h]

theorem decodeWord_classE (h : fieldClass w = 0xE) : decodeWord w = decodeClassE (fieldX w) (fieldNN w) := by
  simp [decodeWord, h]

theorem decodeWord_classF (h : fieldClass w = 0xF) : decodeWord w = decodeClassF (fieldX w) (fieldNN w) := by
  simp [decodeWord, h]

/-- The classes with one form, in which every word is an instruction (R76). -/
def singleFormClasses : List (BitVec 4) := [0x1, 0x2, 0x3, 0x4, 0x6, 0x7, 0xA, 0xB, 0xC, 0xD]

theorem class_cases (c : BitVec 4) :
    c = 0x0 ∨ c = 0x5 ∨ c = 0x8 ∨ c = 0x9 ∨ c = 0xE ∨ c = 0xF ∨ c ∈ singleFormClasses := by
  revert c
  decide

theorem ne_of_mem_singleFormClasses :
    ∀ c ∈ singleFormClasses, c ≠ 0x0 ∧ c ≠ 0x5 ∧ c ≠ 0x8 ∧ c ≠ 0x9 ∧ c ≠ 0xE ∧ c ≠ 0xF := by
  decide

/-! ### What each class leaves unrecognised (R77, R78, R79) -/

theorem ite_some_eq_none_iff {p : Prop} [Decidable p] {o : Option Instr} :
    (if p then some i else o) = none ↔ ¬p ∧ o = none := by
  by_cases hp : p <;> simp [hp]

theorem decodeClass0_eq_none_iff : decodeClass0 w = none ↔ w ≠ 0x00E0 ∧ w ≠ 0x00EE := by
  simp [decodeClass0, ite_some_eq_none_iff]

theorem decodeClass8_eq_none_iff {x y : RegIx} {n : Nibble} :
    decodeClass8 x y n = none ↔ n ∈ [(0x8 : BitVec 4), 0x9, 0xA, 0xB, 0xC, 0xD, 0xF] := by
  simp only [decodeClass8, ite_some_eq_none_iff]
  revert n
  decide

theorem decodeClassE_eq_none_iff {x : RegIx} {nn : Byte} :
    decodeClassE x nn = none ↔ nn ∉ [(0x9E : BitVec 8), 0xA1] := by
  simp [decodeClassE, ite_some_eq_none_iff]

theorem decodeClassF_eq_none_iff {x : RegIx} {nn : Byte} :
    decodeClassF x nn = none ↔ nn ∉ [(0x07 : BitVec 8), 0x0A, 0x15, 0x18, 0x1E, 0x29, 0x33, 0x55, 0x65] := by
  simp [decodeClassF, ite_some_eq_none_iff]

/-! ### An encoded instruction decodes (R76) -/

/-- Each field of the encoded word is an operand or a fixed nibble, and the opcode map finds the instruction by the
fixed ones. -/
theorem decodeWord_encode (i : Instr) : decodeWord (encode i) = some i := by
  cases i with
  | op00E0 | op00EE => rfl
  | op1NNN | op2NNN | op3XNN | op4XNN | op5XY0 | op6XNN | op7XNN | op9XY0 | opANNN | opBNNN | opCXNN | opDXYN =>
    simp [encode, decodeWord]
  | op8XY0 | op8XY1 | op8XY2 | op8XY3 | op8XY4 | op8XY5 | op8XY6 | op8XY7 | op8XYE =>
    simp [encode, decodeWord, decodeClass8]
  | opEX9E | opEXA1 => simp [encode, decodeWord, decodeClassE]
  | opFX07 | opFX0A | opFX15 | opFX18 | opFX1E | opFX29 | opFX33 | opFX55 | opFX65 =>
    simp [encode, decodeWord, decodeClassF]

/-- The decoder reads one word off the front and leaves the rest (R70). -/
theorem decode_of_decodeWord {hi lo : Byte} (h : decodeWord (wordOfBytes hi lo) = some i) (rest : List Byte) :
    decode (hi :: lo :: rest) = .ok (i, rest) := by
  simp only [decode, h]

/-! ### A word that decodes is an encoding (R81) -/

theorem wordNNN_of_class {c : BitVec 4} (h : fieldClass w = c) : wordNNN c (fieldNNN w) = w :=
  h ▸ wordNNN_fields w

theorem wordXNN_of_class {c : BitVec 4} (h : fieldClass w = c) : wordXNN c (fieldX w) (fieldNN w) = w :=
  h ▸ wordXNN_fields w

theorem wordXYN_of_class {c : BitVec 4} {n : Nibble} (h : fieldClass w = c) (hN : fieldN w = n) :
    wordXYN c (fieldX w) (fieldY w) n = w :=
  h ▸ hN ▸ wordXYN_fields w

theorem encode_of_decodeClass0 (h : decodeClass0 w = some i) : encode i = w := by
  unfold decodeClass0 at h
  split_ifs at h with hE0 hEE <;> cases h
  · exact hE0.symm
  · exact hEE.symm

theorem encode_of_decodeClass8 {x y : RegIx} {n : Nibble} (h : decodeClass8 x y n = some i) :
    encode i = wordXYN 0x8 x y n := by
  unfold decodeClass8 at h
  split_ifs at h <;> cases h <;> subst n <;> rfl

theorem encode_of_decodeClassE {x : RegIx} {nn : Byte} (h : decodeClassE x nn = some i) :
    encode i = wordXNN 0xE x nn := by
  unfold decodeClassE at h
  split_ifs at h <;> cases h <;> subst nn <;> rfl

theorem encode_of_decodeClassF {x : RegIx} {nn : Byte} (h : decodeClassF x nn = some i) :
    encode i = wordXNN 0xF x nn := by
  unfold decodeClassF at h
  split_ifs at h <;> cases h <;> subst nn <;> rfl

/-- In a class with one form a word decodes, to the instruction that its class and its fields encode. -/
theorem exists_decodeWord_of_singleForm (h : fieldClass w ∈ singleFormClasses) :
    ∃ i, decodeWord w = some i ∧ encode i = w := by
  simp only [singleFormClasses, List.mem_cons, List.not_mem_nil, or_false] at h
  rcases h with h | h | h | h | h | h | h | h | h | h
  · exact ⟨.op1NNN (fieldNNN w), by simp [decodeWord, h], wordNNN_of_class h⟩
  · exact ⟨.op2NNN (fieldNNN w), by simp [decodeWord, h], wordNNN_of_class h⟩
  · exact ⟨.op3XNN (fieldX w) (fieldNN w), by simp [decodeWord, h], wordXNN_of_class h⟩
  · exact ⟨.op4XNN (fieldX w) (fieldNN w), by simp [decodeWord, h], wordXNN_of_class h⟩
  · exact ⟨.op6XNN (fieldX w) (fieldNN w), by simp [decodeWord, h], wordXNN_of_class h⟩
  · exact ⟨.op7XNN (fieldX w) (fieldNN w), by simp [decodeWord, h], wordXNN_of_class h⟩
  · exact ⟨.opANNN (fieldNNN w), by simp [decodeWord, h], wordNNN_of_class h⟩
  · exact ⟨.opBNNN (fieldNNN w), decodeWord_classB h, wordNNN_of_class h⟩
  · exact ⟨.opCXNN (fieldX w) (fieldNN w), by simp [decodeWord, h], wordXNN_of_class h⟩
  · exact ⟨.opDXYN (fieldX w) (fieldY w) (fieldN w), by simp [decodeWord, h], wordXYN_of_class h rfl⟩

theorem encode_of_decodeWord (h : decodeWord w = some i) : encode i = w := by
  rcases class_cases (fieldClass w) with hc | hc | hc | hc | hc | hc | hc
  · exact encode_of_decodeClass0 (decodeWord_class0 hc ▸ h)
  · rw [decodeWord_class5 hc] at h
    split_ifs at h with hN
    cases h
    exact wordXYN_of_class hc hN
  · exact (encode_of_decodeClass8 (decodeWord_class8 hc ▸ h)).trans (wordXYN_of_class hc rfl)
  · rw [decodeWord_class9 hc] at h
    split_ifs at h with hN
    cases h
    exact wordXYN_of_class hc hN
  · exact (encode_of_decodeClassE (decodeWord_classE hc ▸ h)).trans (wordXNN_of_class hc)
  · exact (encode_of_decodeClassF (decodeWord_classF hc ▸ h)).trans (wordXNN_of_class hc)
  · obtain ⟨j, hdecode, hencode⟩ := exists_decodeWord_of_singleForm hc
    obtain rfl : j = i := Option.some.inj (hdecode.symm.trans h)
    exact hencode

end

/-- Settles O3: the opcode map class by class; a class with one form leaves no word out. -/
theorem unrecognisedWordsAreThese : Obligations.UnrecognisedWordsAreThese := by
  intro w
  rcases class_cases (fieldClass w) with hc | hc | hc | hc | hc | hc | hc
  · simp [decodeWord_class0 hc, decodeClass0_eq_none_iff, hc]
  · simp [decodeWord_class5 hc, hc]
  · rw [decodeWord_class8 hc, decodeClass8_eq_none_iff]
    simp [hc]
  · simp [decodeWord_class9 hc, hc]
  · rw [decodeWord_classE hc, decodeClassE_eq_none_iff]
    simp [hc]
  · rw [decodeWord_classF hc, decodeClassF_eq_none_iff]
    simp [hc]
  · obtain ⟨i, hdecode, -⟩ := exists_decodeWord_of_singleForm hc
    have hother := ne_of_mem_singleFormClasses _ hc
    exact iff_of_false (by simp [hdecode]) (by tauto)

section
variable {w : Word}

/-! ### The rows of the opcode table (R80, R82) -/

/-- An encoded instruction is covered by its own row and by no other: the statements per instruction, together. -/
theorem encodingRow : ∀ i, Laws.EncodingRow.Statement i
  | .op00E0 => Laws.EncodingRow.op00E0
  | .op00EE => Laws.EncodingRow.op00EE
  | .op1NNN nnn => Laws.EncodingRow.op1NNN nnn
  | .op2NNN nnn => Laws.EncodingRow.op2NNN nnn
  | .op3XNN x nn => Laws.EncodingRow.op3XNN x nn
  | .op4XNN x nn => Laws.EncodingRow.op4XNN x nn
  | .op5XY0 x y => Laws.EncodingRow.op5XY0 x y
  | .op6XNN x nn => Laws.EncodingRow.op6XNN x nn
  | .op7XNN x nn => Laws.EncodingRow.op7XNN x nn
  | .op8XY0 x y => Laws.EncodingRow.op8XY0 x y
  | .op8XY1 x y => Laws.EncodingRow.op8XY1 x y
  | .op8XY2 x y => Laws.EncodingRow.op8XY2 x y
  | .op8XY3 x y => Laws.EncodingRow.op8XY3 x y
  | .op8XY4 x y => Laws.EncodingRow.op8XY4 x y
  | .op8XY5 x y => Laws.EncodingRow.op8XY5 x y
  | .op8XY6 x y => Laws.EncodingRow.op8XY6 x y
  | .op8XY7 x y => Laws.EncodingRow.op8XY7 x y
  | .op8XYE x y => Laws.EncodingRow.op8XYE x y
  | .op9XY0 x y => Laws.EncodingRow.op9XY0 x y
  | .opANNN nnn => Laws.EncodingRow.opANNN nnn
  | .opBNNN nnn => Laws.EncodingRow.opBNNN nnn
  | .opCXNN x nn => Laws.EncodingRow.opCXNN x nn
  | .opDXYN x y n => Laws.EncodingRow.opDXYN x y n
  | .opEX9E x => Laws.EncodingRow.opEX9E x
  | .opEXA1 x => Laws.EncodingRow.opEXA1 x
  | .opFX07 x => Laws.EncodingRow.opFX07 x
  | .opFX0A x => Laws.EncodingRow.opFX0A x
  | .opFX15 x => Laws.EncodingRow.opFX15 x
  | .opFX18 x => Laws.EncodingRow.opFX18 x
  | .opFX1E x => Laws.EncodingRow.opFX1E x
  | .opFX29 x => Laws.EncodingRow.opFX29 x
  | .opFX33 x => Laws.EncodingRow.opFX33 x
  | .opFX55 x => Laws.EncodingRow.opFX55 x
  | .opFX65 x => Laws.EncodingRow.opFX65 x

theorem wordXNN_eq_iff {c : BitVec 4} {x : RegIx} {nn : Byte} {u : Word} :
    wordXNN c x nn = u ↔ c = fieldClass u ∧ x = fieldX u ∧ nn = fieldNN u := by
  constructor
  · rintro rfl
    simp
  · rintro ⟨rfl, rfl, rfl⟩
    exact wordXNN_fields u

theorem nibble_and_mask (n : Nibble) : n &&& 0xF#4 = n := BitVec.and_allOnes

theorem byte_and_mask (b : Byte) : b &&& 0xFF#8 = b := BitVec.and_allOnes

theorem recognised_class0_iff (h : fieldClass w = 0x0) : recognised w = true ↔ w = 0x00E0 ∨ w = 0x00EE := by
  rw [← wordXNN_of_class h]
  simp [recognised, opcodeTable, OpcodeRow.covers_wordXNN, wordXNN_eq_iff, fieldClass, fieldX, fieldNN,
    nibble_and_mask, byte_and_mask]

theorem recognised_class5_or_9_iff {c : BitVec 4} (h : c = 0x5 ∨ c = 0x9) (x y : RegIx) (n : Nibble) :
    recognised (wordXYN c x y n) = true ↔ n = 0 := by
  rcases h with rfl | rfl <;>
    simp [recognised, opcodeTable, OpcodeRow.covers_wordXYN, fieldClass, fieldX, fieldY, fieldN, nibble_and_mask]

theorem recognised_class8_iff (x y : RegIx) (n : Nibble) :
    recognised (wordXYN 0x8 x y n) = true ↔ n ∈ [(0x0 : BitVec 4), 0x1, 0x2, 0x3, 0x4, 0x5, 0x6, 0x7, 0xE] := by
  simp [recognised, opcodeTable, OpcodeRow.covers_wordXYN, fieldClass, fieldX, fieldY, fieldN, nibble_and_mask]

theorem recognised_classE_iff (x : RegIx) (nn : Byte) :
    recognised (wordXNN 0xE x nn) = true ↔ nn ∈ [(0x9E : BitVec 8), 0xA1] := by
  simp [recognised, opcodeTable, OpcodeRow.covers_wordXNN, fieldClass, fieldX, fieldNN, byte_and_mask]

theorem recognised_classF_iff (x : RegIx) (nn : Byte) :
    recognised (wordXNN 0xF x nn) = true ↔
      nn ∈ [(0x07 : BitVec 8), 0x0A, 0x15, 0x18, 0x1E, 0x29, 0x33, 0x55, 0x65] := by
  simp [recognised, opcodeTable, OpcodeRow.covers_wordXNN, fieldClass, fieldX, fieldNN, byte_and_mask]

/-- A word that does not decode lies in no row: in its class the table lists the forms that the decoder lists. -/
theorem recognised_eq_false_of_decodeWord_none (h : decodeWord w = none) : recognised w = false := by
  rw [Bool.eq_false_iff]
  rcases (unrecognisedWordsAreThese w).1 h with
    ⟨hc, hE0, hEE⟩ | ⟨hc, hN⟩ | ⟨hc, hN⟩ | ⟨hc, hN⟩ | ⟨hc, hNN⟩ | ⟨hc, hNN⟩
  · rw [Ne, recognised_class0_iff hc]
    exact not_or.2 ⟨hE0, hEE⟩
  · rwa [Ne, ← wordXYN_of_class hc rfl, recognised_class5_or_9_iff (by decide)]
  · have hforms : ∀ n ∈ [(0x8 : BitVec 4), 0x9, 0xA, 0xB, 0xC, 0xD, 0xF],
        n ∉ [(0x0 : BitVec 4), 0x1, 0x2, 0x3, 0x4, 0x5, 0x6, 0x7, 0xE] := by decide
    rw [Ne, ← wordXYN_of_class hc rfl, recognised_class8_iff]
    exact hforms _ hN
  · rwa [Ne, ← wordXYN_of_class hc rfl, recognised_class5_or_9_iff (by decide)]
  · rwa [Ne, ← wordXNN_of_class hc, recognised_classE_iff]
  · rwa [Ne, ← wordXNN_of_class hc, recognised_classF_iff]

end

/-- Settles O1: the fields of an encoded word are the operands, and its two bytes make up the word again. -/
theorem decodeOfEncodeIsInstruction : Obligations.DecodeOfEncodeIsInstruction := by
  intro i rest
  refine ⟨decodeWord_encode i, decode_of_decodeWord ?_ rest⟩
  rw [wordOfBytes_high_low, decodeWord_encode]

/-- Settles O2: class by class, the fixed nibbles and the operands fill the whole word. -/
theorem decodedWordIsItsEncoding : Obligations.DecodedWordIsItsEncoding :=
  fun _ _ => encode_of_decodeWord

/-- Settles O4: a decoded word is an encoding, and encodings lie in their own row; an unrecognised word lies in none. -/
theorem decoderAgreesWithOpcodeTable : Obligations.DecoderAgreesWithOpcodeTable := by
  refine fun w => ⟨fun i h => ?_, recognised_eq_false_of_decodeWord_none⟩
  rw [← encode_of_decodeWord h]
  exact encodingRow i

/-- Settles O5: closed computations of the decoder. -/
theorem sampleWordsDecode : Obligations.SampleWordsDecode := by
  unfold Obligations.SampleWordsDecode
  decide

end Sys2Proof
end

section
/-! SUPPORT. How a step ends (spec/30_encoding.md R71 to R73, R80): with the error of its fetch (R207, R208), with an
unrecognised word (R206), or with what its instruction answers, which is never a refusal (R212); and the register skips
and the indexed jump as whole instructions (spec/40_control_flow.md R100, R107 to R109). -/

namespace Sys2Proof.Machine

section
variable {s : State}

/-! ### The ways a step ends (R71) -/

/-- An error of the fetch is the step's answer. -/
theorem step_of_fetch_error {f : Fault} (h : s.fetch = .error f) : step s = .fault f := by
  rw [step, h]
  rfl

/-- A step that fetches an unrecognised word treats it in the advanced state (R80). -/
theorem step_of_unrecognised {w : Word} (hfetch : s.fetch = .ok w) (hdecode : decodeWord w = none) :
    step s = s.advance.unrecognisedWord w := by
  simp only [step, hfetch, hdecode]

/-- Two bytes are unrecognised exactly when their word is, and the word is what the error names. -/
theorem decode_pair_unrecognised_iff {hi lo : Byte} {w : Word} :
    decode [hi, lo] = .error (.unrecognised w) ↔ wordOfBytes hi lo = w ∧ decodeWord w = none := by
  cases hword : decodeWord (wordOfBytes hi lo) with
  | none =>
    simp only [decode, hword, Except.error.injEq, DecodeError.unrecognised.injEq]
    exact ⟨fun h => ⟨h, h ▸ hword⟩, And.left⟩
  | some i =>
    simp only [decode, hword, reduceCtorEq, false_iff]
    rintro ⟨rfl, hnone⟩
    cases hword.symm.trans hnone

/-- Where the fetch succeeds, an error leaves the advanced state (R203). -/
theorem State.errorState_of_fetch_ok {w : Word} (h : s.fetch = .ok w) : s.errorState = s.advance := by
  rw [State.errorState, h]

theorem State.unrecognisedWord_nopReport (h : s.cfg.unknownOpcodePolicy = .nopReport) (w : Word) :
    s.unrecognisedWord w = .next { s with unknownWord := some w } := by
  rw [State.unrecognisedWord, h]

theorem State.unrecognisedWord_fatal (h : s.cfg.unknownOpcodePolicy = .fatal) (w : Word) :
    s.unrecognisedWord w = .fault (.unknownOpcode s.instrAddr w) := by
  rw [State.unrecognisedWord, h]
  rfl

/-! ### The errors of the fetch (R72, R208) -/

theorem State.fetch_misaligned (h : s.cfg.misalignedFetch = .fault ∧ s.pc.getLsbD 0 = true) :
    s.fetch = .error (.misalignedFetch s.pc) :=
  if_pos h

theorem State.fetch_outOfRange (halign : ¬(s.cfg.misalignedFetch = .fault ∧ s.pc.getLsbD 0 = true))
    (hout : s.cfg.memSize ≤ s.pc.toNat + 1) :
    s.fetch = .error (.memoryOutOfRange s.pc (max s.pc.toNat s.cfg.memSize)) :=
  (if_neg halign).trans (if_neg (Nat.not_lt.2 hout))

theorem State.not_misaligned_of (h : s.cfg.misalignedFetch = .execute ∨ s.pc.getLsbD 0 = false) :
    ¬(s.cfg.misalignedFetch = .fault ∧ s.pc.getLsbD 0 = true) := by
  rintro ⟨hfault, hodd⟩
  rcases h with hexecute | heven
  · cases hexecute.symm.trans hfault
  · cases heven.symm.trans hodd

/-! ### No refusal (R212) -/

variable {r : Refusal}

theorem State.checkRange_ne_refused (a n : Nat) (t : State) : s.checkRange a n t ≠ .refused r := by
  unfold State.checkRange
  split <;> nofun

theorem State.push_ne_refused (w : Word) (k : State → State) : s.push w k ≠ .refused r := by
  unfold State.push
  split <;> nofun

theorem State.pop_ne_refused (k : Word → State → State) : s.pop k ≠ .refused r := by
  unfold State.pop
  split <;> nofun

theorem State.unrecognisedWord_ne_refused (w : Word) : s.unrecognisedWord w ≠ .refused r := by
  unfold State.unrecognisedWord
  split <;> nofun

theorem execFX0A_ne_refused (x : RegIx) : execFX0A x s ≠ .refused r := by
  unfold execFX0A
  split <;> nofun

theorem execFX1E_ne_refused (x : RegIx) : execFX1E x s ≠ .refused r := by
  simp only [execFX1E]
  split <;> nofun

theorem exec00EE_ne_refused : exec00EE s ≠ .refused r := State.pop_ne_refused _

theorem exec2NNN_ne_refused (nnn : Addr) : exec2NNN nnn s ≠ .refused r := State.push_ne_refused _ _

/-- Every instruction has a meaning: it ends through a shared operation, through a case of its own, or at once. -/
theorem exec_ne_refused (i : Instr) : exec i s ≠ .refused r := by
  cases i with
  | op00EE => exact exec00EE_ne_refused
  | op2NNN => exact exec2NNN_ne_refused _
  | opDXYN | opFX33 | opFX55 | opFX65 => exact State.checkRange_ne_refused _ _ _
  | opFX0A => exact execFX0A_ne_refused _
  | opFX1E => exact execFX1E_ne_refused _
  | op00E0 | op1NNN | op3XNN | op4XNN | op5XY0 | op6XNN | op7XNN | op8XY0 | op8XY1 | op8XY2 | op8XY3 | op8XY4
  | op8XY5 | op8XY6 | op8XY7 | op8XYE | op9XY0 | opANNN | opBNNN | opCXNN | opEX9E | opEXA1 | opFX07 | opFX15
  | opFX18 | opFX29 => nofun

/-! ### Skips and the indexed jump (R100, R109) -/

/-- A skip changes PC alone. -/
theorem State.skipIf_frame (p : Bool) : s.skipIf p = { s with pc := (s.skipIf p).pc } := by
  rw [State.skipIf_eq]
  rfl

/-- A skip moves PC by 2 modulo 65536 when its condition holds (R100). -/
theorem State.toNat_skipIf_pc (p : Bool) : (s.skipIf p).pc.toNat = (s.pc.toNat + if p then 2 else 0) % 65536 := by
  cases p with
  | true => exact BitVec.toNat_add s.pc 2
  | false => exact (Nat.mod_eq_of_lt s.pc.isLt).symm

/-- NNN + V0 fits in 16 bits, so the target is the exact sum (R109). -/
theorem State.toNat_indexedTarget (nnn : Addr) : (s.indexedTarget nnn).toNat = nnn.toNat + (s.getV 0).toNat := by
  have hnnn : nnn.toNat < 4096 := nnn.isLt
  have hV0 : (s.getV 0).toNat < 256 := (s.getV 0).isLt
  rw [State.indexedTarget, BitVec.toNat_ofNat]
  omega

end

/-- Settles O9: the fetch and an unrecognised word answer states or errors, and so does every instruction. -/
theorem noStepIsRefused : Obligations.NoStepIsRefused := by
  intro s r
  cases hfetch : s.fetch with
  | error f =>
    rw [step_of_fetch_error hfetch]
    nofun
  | ok w =>
    cases hdecode : decodeWord w with
    | none =>
      rw [step_of_unrecognised hfetch hdecode]
      exact State.unrecognisedWord_ne_refused w
    | some i =>
      rw [step_of_decode hfetch hdecode]
      exact exec_ne_refused i

/-- Settles O7: the word at PC is the unrecognised one, and each policy answers it from the advanced state. -/
theorem unrecognisedWordOnlyAdvances : Obligations.UnrecognisedWordOnlyAdvances := by
  intro s w hfetchable hbytes
  obtain ⟨hword, hnone⟩ := decode_pair_unrecognised_iff.1 hbytes
  have hfetch : s.fetch = .ok w := hword ▸ State.fetch_of_fetchable hfetchable
  have hstep : step s = s.advance.unrecognisedWord w := step_of_unrecognised hfetch hnone
  constructor
  · intro hpolicy
    exact s.stepTransaction_next (hstep.trans (State.unrecognisedWord_nopReport (s := s.advance) hpolicy w))
  · intro hpolicy
    have hfault : step s = .fault (.unknownOpcode s.pc w) := by
      rw [hstep, State.unrecognisedWord_fatal (s := s.advance) hpolicy, State.instrAddr_advance]
    rw [show transact .step s = s.stepTransaction from rfl, s.stepTransaction_fault hfault,
      State.errorState_of_fetch_ok hfetch]
    rfl

/-- Settles O8: the step answers the fetch's error, and the fetch looks at the alignment before the range. -/
theorem fetchErrorsInOrder : Obligations.FetchErrorsInOrder :=
  fun _ => ⟨fun hodd => step_of_fetch_error (State.fetch_misaligned hodd),
    fun halign hout => step_of_fetch_error (State.fetch_outOfRange halign hout)⟩

/-- Settles O18: strict decoding by class, and the skip on the comparison of the two registers. -/
theorem registerSkipsCompareRegisters : Obligations.RegisterSkipsCompareRegisters := by
  refine ⟨fun _ => decodeWord_class5, fun _ => decodeWord_class9, fun s x y =>
    ⟨⟨_, rfl, State.skipIf_frame _, ?_⟩, ⟨_, rfl, State.skipIf_frame _, ?_⟩⟩⟩
  · exact (State.toNat_skipIf_pc _).trans (by simp)
  · exact (State.toNat_skipIf_pc _).trans (by simp)

/-- Settles O19: the target is the exact sum, and a fetch there that is not stopped for being odd fails its range check
when the target's word lies outside memory. -/
theorem indexedJumpAddsV0 : Obligations.IndexedJumpAddsV0 := by
  refine ⟨fun _ => decodeWord_classB, fun s nnn => ?_⟩
  refine ⟨s.setPc (s.indexedTarget nnn), rfl, State.toNat_indexedTarget nnn, rfl, fun hout hstop => ?_⟩
  exact step_of_fetch_error (State.fetch_outOfRange (State.not_misaligned_of hstop) hout)

end Sys2Proof.Machine
end

section
/-! SUPPORT. Jumps, calls, returns and the byte and key skips as whole instructions (spec/40_control_flow.md R100, R102
to R106; spec/44_input_timer.md R180, R181), and calls matched by returns over a list of instructions. -/

namespace Sys2Proof.Machine

section
variable {s : State}

/-! ### The call stack (R25, R102, R104) -/

/-- A call on a stack with room pushes the advanced PC and goes to NNN. -/
theorem exec_call (h : s.stack.length < 16) (nnn : Addr) :
    exec (.op2NNN nnn) s = .next { s with pc := addrWord nnn, stack := s.stack ++ [s.pc] } :=
  if_pos h

/-- A call on a full stack overflows (R204). -/
theorem exec_call_full (h : s.stack.length = 16) (nnn : Addr) :
    exec (.op2NNN nnn) s = .fault (.stackOverflow (s.pc - 2)) :=
  if_neg (Nat.not_lt.2 h.ge)

/-- A return goes to the top entry and removes it. -/
theorem exec_return {rest : List Word} {w : Word} (h : s.stack = rest ++ [w]) :
    exec .op00EE s = .next { s with pc := w, stack := rest } := by
  have htop : s.stack.getLast? = some w := by rw [h, List.getLast?_concat]
  have hrest : s.stack.dropLast = rest := by rw [h, List.dropLast_concat]
  simp only [exec, exec00EE, State.pop, htop, hrest]
  rfl

/-- A return on an empty stack underflows (R205). -/
theorem exec_return_empty (h : s.stack = []) : exec .op00EE s = .fault (.stackUnderflow (s.pc - 2)) := by
  simp only [exec, exec00EE, State.pop, h]
  rfl

/-- A call on a stack with room leaves a stack one entry deeper, from which a return gives the caller's state back. -/
theorem exists_call_undone_by_return (h : s.stack.length < 16) (nnn : Addr) :
    ∃ t, exec (.op2NNN nnn) s = .next t ∧ t.stack.length = s.stack.length + 1 ∧ exec .op00EE t = .next s :=
  ⟨_, exec_call h nnn, List.length_append, exec_return rfl⟩

/-! ### Lists of instructions -/

theorem execAll_cons_of_next {i : Instr} {t : State} (h : exec i s = .next t) (is : List Instr) :
    execAll (i :: is) s = execAll is t := by
  rw [execAll, h]

/-- A list that completes in `t` hands `t` to the instructions after it. -/
theorem execAll_append_of_next {is : List Instr} {t : State} (h : execAll is s = .next t) (js : List Instr) :
    execAll (is ++ js) s = execAll js t := by
  induction is generalizing s with
  | nil => cases h; rfl
  | cons i is ih =>
    cases hexec : exec i s with
    | next u =>
      rw [execAll_cons_of_next hexec] at h
      rw [List.cons_append, execAll_cons_of_next hexec, ih h]
    | fault | refused =>
      rw [execAll, hexec] at h
      cases h

/-! ### Key and negated skips (R100, R180, R181) -/

/-- The low nibble of VX is VX modulo 16. -/
theorem State.toNat_lowNibble (x : RegIx) : (s.lowNibble x).toNat = (s.getV x).toNat % 16 :=
  BitVec.extractLsb'_toNat 0 4 _

/-- A skip on a negated condition moves PC by 2 modulo 65536 when the condition fails. -/
theorem State.toNat_skipIf_not_pc (p : Bool) :
    (s.skipIf (!p)).pc.toNat = (s.pc.toNat + if p then 0 else 2) % 65536 := by
  rw [State.toNat_skipIf_pc]
  cases p <;> rfl

end

/-- Settles O20, by induction on the calls: the inner calls and their returns answer the state the first call left, in
which the last return pops the starting PC. -/
theorem matchedCallsAndReturnsBalance : Obligations.MatchedCallsAndReturnsBalance := by
  intro s calls hfit
  induction calls generalizing s with
  | nil => rfl
  | cons nnn calls ih =>
    rw [List.length_cons] at hfit
    obtain ⟨t, hcall, hdepth, hreturn⟩ := exists_call_undone_by_return (s := s) (by omega) nnn
    have hinner : execAll (calls.map Instr.op2NNN ++ List.replicate calls.length .op00EE) t = .next t :=
      ih t (by omega)
    calc execAll ((nnn :: calls).map Instr.op2NNN ++ List.replicate (calls.length + 1) .op00EE) s
      _ = execAll (calls.map Instr.op2NNN ++ List.replicate (calls.length + 1) .op00EE) t :=
        execAll_cons_of_next hcall _
      _ = execAll [.op00EE] t := by
        rw [List.replicate_succ', ← List.append_assoc, execAll_append_of_next hinner]
      _ = .next s := execAll_cons_of_next hreturn []

/-- Settles O14: the target is NNN zero-extended, and only PC is written. -/
theorem jumpGoesToAddress : Obligations.JumpGoesToAddress :=
  ⟨fun _ h => by simp [decodeWord, h], fun s nnn => ⟨s.setPc (addrWord nnn), rfl, toNat_addrWord nnn, rfl⟩⟩

/-- Settles O15: the stack either has room for the advanced PC or is full. -/
theorem callPushesReturnAddress : Obligations.CallPushesReturnAddress :=
  fun _ nnn => ⟨fun hroom => ⟨_, exec_call hroom nnn, toNat_addrWord nnn, rfl, rfl⟩, fun hfull => exec_call_full hfull nnn⟩

/-- Settles O16: the stack either has a top entry to pop or is empty. -/
theorem returnPopsIntoPc : Obligations.ReturnPopsIntoPc :=
  fun _ => ⟨fun _ _ htop => exec_return htop, exec_return_empty⟩

/-- Settles O17: decoding by class, and the skip on the comparison of VX with NN. -/
theorem byteSkipsCompareRegister : Obligations.ByteSkipsCompareRegister := by
  refine ⟨fun _ h => by simp [decodeWord, h], fun _ h => by simp [decodeWord, h], fun s x nn =>
    ⟨⟨_, rfl, State.skipIf_frame _, ?_⟩, ⟨_, rfl, State.skipIf_frame _, ?_⟩⟩⟩
  · exact (State.toNat_skipIf_pc _).trans (by simp)
  · exact (State.toNat_skipIf_not_pc _).trans (by simp)

/-- Settles O42: decoding on NN within class E, and the skip on the key that the low nibble of VX names. -/
theorem keySkipsTestLowNibble : Obligations.KeySkipsTestLowNibble := by
  refine ⟨fun _ hE hNN => by simp [decodeWord_classE hE, decodeClassE, hNN],
    fun _ hE hNN => by simp [decodeWord_classE hE, decodeClassE, hNN], fun s x k hk => ?_⟩
  obtain rfl : k = s.lowNibble x := BitVec.eq_of_toNat_eq (hk.trans (State.toNat_lowNibble x).symm)
  exact ⟨⟨_, rfl, State.skipIf_frame _, State.toNat_skipIf_pc _⟩,
    ⟨_, rfl, State.skipIf_frame _, State.toNat_skipIf_not_pc _⟩⟩

end Sys2Proof.Machine
end

section
/-! SUPPORT. Register loads, arithmetic, logic and shifts as whole instructions (spec/41_register_alu.md R120 to R130):
what the byte operations are on the naturals, and the two ways an instruction of this group writes registers, VX alone
or the result into VX and then the flag into VF (spec/30_encoding.md R83). -/

namespace Sys2Proof.Machine

/-! ### The byte operations on the naturals (R121, R126 to R130) -/

theorem toNat_addBytes (a b : Byte) : (addBytes a b).toNat = (a.toNat + b.toNat) % 256 := by
  rw [addBytes, BitVec.toNat_ofNat, Nat.mod_mod]

theorem toNat_subBytes (a b : Byte) : (subBytes a b).toNat = (a.toNat + 256 - b.toNat) % 256 := by
  rw [subBytes, BitVec.toNat_ofNat, Nat.mod_mod]

theorem toNat_shiftRight (a : Byte) : (shiftRight a).toNat = a.toNat / 2 := by
  rw [shiftRight, BitVec.toNat_ushiftRight, Nat.shiftRight_one]

theorem toNat_shiftLeft (a : Byte) : (shiftLeft a).toNat = a.toNat * 2 % 256 := by
  rw [shiftLeft, BitVec.toNat_shiftLeft, Nat.shiftLeft_eq]

/-! ### The flags as numbers (R12) -/

theorem toNat_flagByte (f : Bool) : (flagByte f).toNat = f.toNat := by
  cases f <;> rfl

theorem toNat_flagByte_decide (p : Prop) [Decidable p] : (flagByte (decide p)).toNat = if p then 1 else 0 := by
  by_cases hp : p <;> simp [toNat_flagByte, hp]

theorem toNat_flagByte_carryOut (a b : Byte) :
    (flagByte (carryOut a b)).toNat = if 255 < a.toNat + b.toNat then 1 else 0 :=
  toNat_flagByte_decide _

theorem toNat_flagByte_noBorrow (a b : Byte) :
    (flagByte (noBorrow a b)).toNat = if b.toNat ≤ a.toNat then 1 else 0 :=
  toNat_flagByte_decide _

theorem toNat_flagByte_getLsbD (a : Byte) (k : Nat) : (flagByte (a.getLsbD k)).toNat = a.toNat / 2 ^ k % 2 := by
  rw [toNat_flagByte, ← BitVec.testBit_toNat, Nat.toNat_testBit]

/-- The bit shifted out to the right is the remainder of the halving. -/
theorem toNat_flagByte_lowBit (a : Byte) : (flagByte (lowBit a)).toNat = a.toNat % 2 := by
  rw [lowBit, toNat_flagByte_getLsbD, Nat.pow_zero, Nat.div_one]

/-- The bit shifted out to the left is the quotient by its weight 128: a byte has no bit above it. -/
theorem toNat_flagByte_highBit (a : Byte) : (flagByte (highBit a)).toNat = a.toNat / 128 := by
  have hbit : a.toNat / 128 < 2 := Nat.div_lt_of_lt_mul a.isLt
  rw [highBit, toNat_flagByte_getLsbD]
  exact Nat.mod_eq_of_lt hbit

/-! ### Decoding and register writes -/

section
variable {s : State} {i : Instr} {x : RegIx} {b : Byte}

/-- Class 0x8 decodes on N alone (R78). -/
theorem decodeWord_class8_of_fieldN {w : Word} {n : Nibble} (hclass : fieldClass w = 0x8) (hN : fieldN w = n) :
    decodeWord w = decodeClass8 (fieldX w) (fieldY w) n :=
  hN ▸ decodeWord_class8 hclass

/-- An instruction that writes VX alone. -/
theorem exists_next_of_setV (h : exec i s = .next (s.setV x b)) :
    ∃ t, exec i s = .next t ∧ t = { s with v := t.v } ∧ t.getV x = b ∧ ∀ r, r ≠ x → t.getV r = s.getV r :=
  ⟨_, h, rfl, s.getV_setV_same x b, fun _ hr => s.getV_setV_of_ne hr b⟩

/-- An instruction that writes its result into VX and then its flag into VF: with X = F the flag stays (R83). -/
theorem exists_next_of_setResult {f : Bool} {result flag : Nat} (h : exec i s = .next (s.setResult x b f))
    (hresult : b.toNat = result) (hflag : (flagByte f).toNat = flag) :
    ∃ t, exec i s = .next t ∧ t = { s with v := t.v } ∧ (x ≠ 0xF → (t.getV x).toNat = result) ∧
      (t.getV 0xF).toNat = flag ∧ ∀ r, r ≠ x → r ≠ 0xF → t.getV r = s.getV r := by
  refine ⟨_, h, rfl, fun hx => ?_, ?_, fun r hr hF => ?_⟩
  · rw [State.getV_setResult, if_neg hx, if_pos rfl, hresult]
  · rw [State.getV_setResult, if_pos rfl, hflag]
  · rw [State.getV_setResult, if_neg hF, if_neg hr]

end

/-- Settles O21: both write VX alone, the one NN, the other the sum modulo 256. -/
theorem loadAndAddByte : Obligations.LoadAndAddByte := by
  refine ⟨fun _ h => by simp [decodeWord, h], fun _ h => by simp [decodeWord, h], fun s x nn =>
    ⟨exists_next_of_setV rfl, ?_⟩⟩
  obtain ⟨t, hexec, hframe, hsum, hkept⟩ := exists_next_of_setV (s := s) (i := .op7XNN x nn) rfl
  exact ⟨t, hexec, hframe, hsum ▸ toNat_addBytes _ _, hkept⟩

/-- Settles O22: VY is read before VX, its only target, is written. -/
theorem copyRegister : Obligations.CopyRegister :=
  ⟨fun _ => decodeWord_class8_of_fieldN, fun _ _ _ => exists_next_of_setV rfl⟩

/-- Settles O23: the three operations of `BitVec` act on each bit, and each instruction writes VX alone. -/
theorem logicIsBitwise : Obligations.LogicIsBitwise := by
  intro s x y
  obtain ⟨t, hor, htframe, ht, htkept⟩ := exists_next_of_setV (s := s) (i := .op8XY1 x y) rfl
  obtain ⟨u, hand, huframe, hu, hukept⟩ := exists_next_of_setV (s := s) (i := .op8XY2 x y) rfl
  obtain ⟨w, hxor, hwframe, hw, hwkept⟩ := exists_next_of_setV (s := s) (i := .op8XY3 x y) rfl
  refine ⟨t, u, w, hor, hand, hxor, fun k => ?_, fun k => ?_, fun k => ?_,
    fun r hr => ⟨htkept r hr, hukept r hr, hwkept r hr⟩, htframe, huframe, hwframe⟩
  · rw [ht, BitVec.getLsbD_or]
  · rw [hu, BitVec.getLsbD_and]
  · rw [hw, BitVec.getLsbD_xor, Bool.bne_eq_xor]

/-- Settles O24: the sum modulo 256, and then the carry. -/
theorem addSetsCarry : Obligations.AddSetsCarry :=
  ⟨fun _ => decodeWord_class8_of_fieldN, fun _ _ _ =>
    exists_next_of_setResult rfl (toNat_addBytes _ _) (toNat_flagByte_carryOut _ _)⟩

/-- Settles O25: 8XY7 is 8XY5 with the operands exchanged, and VX the target of both. -/
theorem subtractSetsNoBorrow : Obligations.SubtractSetsNoBorrow :=
  ⟨fun _ => decodeWord_class8_of_fieldN, fun _ => decodeWord_class8_of_fieldN, fun _ _ _ =>
    ⟨exists_next_of_setResult rfl (toNat_subBytes _ _) (toNat_flagByte_noBorrow _ _),
      exists_next_of_setResult rfl (toNat_subBytes _ _) (toNat_flagByte_noBorrow _ _)⟩⟩

/-- Settles O26: the shifts halve and double VX, and the bit that leaves it is taken from its value before. -/
theorem shiftsSetBitShiftedOut : Obligations.ShiftsSetBitShiftedOut :=
  ⟨fun _ => decodeWord_class8_of_fieldN, fun _ => decodeWord_class8_of_fieldN, fun _ _ _ =>
    ⟨exists_next_of_setResult rfl (toNat_shiftRight _) (toNat_flagByte_lowBit _),
      exists_next_of_setResult rfl (toNat_shiftLeft _) (toNat_flagByte_highBit _)⟩⟩

end Sys2Proof.Machine
end

section
/-! SUPPORT. The index register and the memory instructions as a whole (spec/42_index_memory.md R141 to R145): the
condition under which each completes and the state it then leaves, and what the bytes stored and the registers loaded
read as. -/

namespace Sys2Proof

/-- The constraints of R6 and R7 on the parameters. -/
theorem Config.wellFormed_iff {c : Config} :
    c.wellFormed = true ↔ 0x200 ≤ c.memSize ∧ c.memSize ≤ 0x10000 ∧ c.fontBase + 80 ≤ 0x200 := by
  simp [Config.wellFormed, and_assoc]

end Sys2Proof

namespace Sys2Proof.Machine

section
variable {s t : State} {x : RegIx}

/-! ### Completion (R54, R141) -/

theorem exec_addToIndex (h : s.i.toNat + (s.getV x).toNat < s.cfg.memSize) :
    exec (.opFX1E x) s = .next (s.setI (BitVec.ofNat 16 (s.indexed (s.getV x).toNat))) :=
  if_pos h

theorem exec_addToIndex_fault (h : s.cfg.memSize ≤ s.i.toNat + (s.getV x).toNat) :
    exec (.opFX1E x) s = .fault (.memoryOutOfRange (s.pc - 2) (s.i.toNat + (s.getV x).toNat)) :=
  if_neg (Nat.not_lt.2 h)

theorem exec_storeDigits (h : s.i.toNat + 2 < s.cfg.memSize) :
    exec (.opFX33 x) s = .next (s.memWrites (s.indexed 0) (bcdDigits (s.getV x))) :=
  s.checkRange_pass (.inr h) _

theorem exec_storeRegs (h : s.i.toNat + x.toNat < s.cfg.memSize) :
    exec (.opFX55 x) s = .next (s.memWrites (s.indexed 0) ((regsUpTo x).map s.getV)) :=
  s.checkRange_pass (.inr h) _

theorem exec_loadRegs (h : s.i.toNat + x.toNat < s.cfg.memSize) :
    exec (.opFX65 x) s = .next (s.loadRegs (regsUpTo x)) :=
  s.checkRange_pass (.inr h) _

/-- A non-empty access through I that completes reaches no byte outside memory. -/
theorem State.checkRange_index_next {k : Nat} {u : State} (h : s.checkRange (s.indexed 0) (k + 1) u = .next t) :
    s.i.toNat + k < s.cfg.memSize ∧ t = u := by
  obtain ⟨hempty | hrange, ht⟩ := s.checkRange_next h
  · cases hempty
  · exact ⟨hrange, ht⟩

/-! ### Bytes stored from I on (R57) -/

theorem State.memRead_memWrites_index (bs : List Byte) {k : Nat} (hk : k < bs.length) :
    (s.memWrites (s.indexed 0) bs).memRead (s.i.toNat + k) = bs[k] := by
  have hoffset : s.i.toNat + k - s.indexed 0 = k := Nat.add_sub_cancel_left ..
  rw [State.memRead_memWrites, dif_pos ⟨Nat.le_add_right _ _, hoffset.symm ▸ hk⟩]
  simp only [hoffset]

theorem State.memRead_memWrites_off_index {bs : List Byte} {a : Nat}
    (h : a < s.i.toNat ∨ s.i.toNat + bs.length ≤ a) : (s.memWrites (s.indexed 0) bs).memRead a = s.memRead a := by
  rw [State.memRead_memWrites, dif_neg]
  rw [State.indexed_eq]
  omega

/-! ### Registers loaded from I on (R145) -/

theorem State.getV_loadRegsUpTo (r : RegIx) :
    (s.loadRegs (regsUpTo x)).getV r = if r.toNat ≤ x.toNat then s.memRead (s.i.toNat + r.toNat) else s.getV r := by
  simp only [State.getV_loadRegs, mem_regsUpTo, State.indexed_eq]

/-! ### Decimal digits (R143) -/

/-- A quotient or remainder of a byte fits in a byte. -/
theorem toNat_ofNat_byte_of_le {b : Byte} {d : Nat} (h : d ≤ b.toNat) : (BitVec.ofNat 8 d).toNat = d :=
  (BitVec.toNat_ofNat _ _).trans (Nat.mod_eq_of_lt (h.trans_lt b.isLt))

end

/-- Settles O32: FX55's stores leave Vr at I + r, and no byte outside I to I + X is stored. -/
theorem storeRegisters : Obligations.StoreRegisters := by
  intro s x hfit
  refine ⟨_, exec_storeRegs hfit, s.memWrites_eq _ _, fun r hr => State.memRead_storeRegs hr, fun a ha => ?_⟩
  exact State.memRead_memWrites_off_index (by rw [List.length_map, length_regsUpTo]; omega)

/-- Settles O33: the registers loaded are those numbered at most X. -/
theorem loadRegisters : Obligations.LoadRegisters := by
  intro s x hfit
  refine ⟨_, exec_loadRegs hfit, s.loadRegs_eq _, fun r hr => ?_, fun r hr => ?_⟩
  · rw [State.getV_loadRegsUpTo, if_pos hr]
  · rw [State.getV_loadRegsUpTo, if_neg (Nat.not_le.2 hr)]

/-- Settles O34: FX55 keeps I (D10), so FX65 passes the same range check and reads the bytes FX55 stored. -/
theorem loadGivesBackStoredRegisters : Obligations.LoadGivesBackStoredRegisters := by
  intro s t u x hstore hmem hcfg hindex
  obtain ⟨hfit, ht⟩ := State.checkRange_index_next hstore
  have hi : u.i = s.i := by rw [hindex, ht, State.memWrites_i]
  have hsize : u.cfg = s.cfg := by rw [hcfg, ht, State.memWrites_cfg]
  obtain ⟨w, hload, -, hloaded, -⟩ := loadRegisters u x (by rwa [hi, hsize])
  refine ⟨w, hload, fun r hr => ?_⟩
  calc w.getV r
    _ = u.memRead (u.i.toNat + r.toNat) := hloaded r hr
    _ = t.memRead (u.i.toNat + r.toNat) := keepsBytesBut_of_mem_eq hmem hcfg [] _ List.not_mem_nil
    _ = s.getV r := by rw [hi, ht, State.memRead_storeRegs hr]

/-- Settles O31: the k-th of the three bytes stored is the k-th digit. -/
theorem storeDecimalDigits : Obligations.StoreDecimalDigits := by
  intro s x hfit
  have hdigit {k : Nat} (hk : k < 3) : (s.memWrites (s.indexed 0) (bcdDigits (s.getV x))).memRead (s.i.toNat + k) =
      (bcdDigits (s.getV x))[k] := State.memRead_memWrites_index _ hk
  refine ⟨_, exec_storeDigits hfit, s.memWrites_eq _ _, ?_, ?_, ?_, fun a ha => ?_⟩
  · exact (congrArg _ (hdigit (k := 0) (by decide))).trans (toNat_ofNat_byte_of_le (Nat.div_le_self _ _))
  · exact (congrArg _ (hdigit (k := 1) (by decide))).trans
      (toNat_ofNat_byte_of_le ((Nat.mod_le _ _).trans (Nat.div_le_self _ _)))
  · exact (congrArg _ (hdigit (k := 2) (by decide))).trans (toNat_ofNat_byte_of_le (Nat.mod_le _ _))
  · exact State.memRead_memWrites_off_index (bs := bcdDigits (s.getV x)) ha

/-- Settles O35: FX33 keeps I and MEM_SIZE, so F265 passes the same range check and loads the three digits. -/
theorem storedDigitsMakeUpTheByte : Obligations.StoredDigitsMakeUpTheByte := by
  intro s t x hstore
  obtain ⟨hfit, -⟩ := State.checkRange_index_next hstore
  obtain ⟨t', ht', hframe, hhundreds, htens, hones, -⟩ := storeDecimalDigits s x hfit
  obtain rfl : t = t' := by injection hstore.symm.trans ht'
  have hi : t.i = s.i := by rw [hframe]
  have hcfg : t.cfg = s.cfg := by rw [hframe]
  obtain ⟨w, hload, -, hloaded, -⟩ := loadRegisters t 0x2 (by rw [hi, hcfg]; exact hfit)
  have h0 : w.getV 0 = t.memRead s.i.toNat := hi ▸ hloaded 0 (by decide)
  have h1 : w.getV 1 = t.memRead (s.i.toNat + 1) := hi ▸ hloaded 1 (by decide)
  have h2 : w.getV 2 = t.memRead (s.i.toNat + 2) := hi ▸ hloaded 2 (by decide)
  have hbyte : (s.getV x).toNat < 256 := (s.getV x).isLt
  refine ⟨w, hload, ?_⟩
  rw [h0, h1, h2, hhundreds, htens, hones]
  omega

/-- Settles O13: FX1E tests the sum itself, and the others fail the range check of their accesses from I on. -/
theorem outOfRangeAccessesFault : Obligations.OutOfRangeAccessesFault :=
  fun s _ _ _ => ⟨exec_addToIndex_fault, fun hout => s.checkRange_fail (by decide) hout _,
    fun hout => ⟨s.checkRange_fail (Nat.succ_ne_zero _) hout _, s.checkRange_fail (Nat.succ_ne_zero _) hout _⟩,
    fun hn hout => s.checkRange_fail (Nat.ne_of_gt hn) hout _⟩

/-- Settles O29: a sum below a well-formed MEM_SIZE fits in 16 bits. -/
theorem addRegisterToIndex : Obligations.AddRegisterToIndex := by
  intro s x hwf hsum
  obtain ⟨-, hsize, -⟩ := Config.wellFormed_iff.1 hwf
  exact ⟨_, exec_addToIndex hsum, (BitVec.toNat_ofNat _ _).trans (Nat.mod_eq_of_lt (hsum.trans_le hsize)), rfl⟩

/-- Settles O30: the digit is at most 15, so its glyph lies within the font's 80 bytes, all below 0x200. -/
theorem glyphAddressOfDigit : Obligations.GlyphAddressOfDigit := by
  intro s x hwf
  obtain ⟨-, -, hfont⟩ := Config.wellFormed_iff.1 hwf
  have hglyph : s.glyphAddr (s.lowNibble x) = s.cfg.fontBase + 5 * ((s.getV x).toNat % 16) := by
    rw [State.glyphAddr, State.toNat_lowNibble]
  have hindex : (BitVec.ofNat 16 (s.glyphAddr (s.lowNibble x))).toNat =
      s.cfg.fontBase + 5 * ((s.getV x).toNat % 16) := by
    rw [BitVec.toNat_ofNat, hglyph]
    omega
  refine ⟨_, rfl, rfl, hindex, ?_⟩
  rw [State.setI_i, hindex]
  omega

end Sys2Proof.Machine
end

section
/-! SUPPORT. The display instructions (spec/43_display.md R161 to R163). A sprite's set bits name the pixels a draw
flips, in drawing order; with at most 15 rows of 8 columns no pixel comes twice, so a draw flips each exactly once and
collides exactly when one of them was on. -/

namespace Sys2Proof.Machine

/-! ### Flipping pixels one after another -/

/-- A pixel's column and row. -/
abbrev PixelPos := Fin 64 × Fin 32

/-- One pixel flipped, and the collision noted when it was on: what a set sprite bit does. -/
def Drawing.flip (d : Drawing) (p : PixelPos) : Drawing where
  fb := d.fb.setPixel p.1 p.2 (!d.fb.pixel p.1 p.2)
  collided := d.collided || d.fb.pixel p.1 p.2

theorem Drawing.flip_pixel (d : Drawing) (p q : PixelPos) :
    (d.flip p).fb.pixel q.1 q.2 = if q = p then !d.fb.pixel q.1 q.2 else d.fb.pixel q.1 q.2 := by
  simp only [Drawing.flip, FrameBuffer.pixel_setPixel, ← Prod.ext_iff]
  split
  next h => rw [h]
  next => rfl

/-- Flips of distinct pixels invert each of them and no other. -/
theorem Drawing.foldl_flip_pixel {ps : List PixelPos} (hps : ps.Nodup) (d : Drawing) (q : PixelPos) :
    (ps.foldl Drawing.flip d).fb.pixel q.1 q.2 = if q ∈ ps then !d.fb.pixel q.1 q.2 else d.fb.pixel q.1 q.2 := by
  induction ps generalizing d with
  | nil => simp
  | cons p ps ih =>
    obtain ⟨hp, hps⟩ := List.nodup_cons.1 hps
    rw [List.foldl_cons, ih hps, Drawing.flip_pixel]
    by_cases hq : q = p
    · simp [hq, hp]
    · simp [hq]

/-- Flips of distinct pixels collide when one of them was on before the first flip. -/
theorem Drawing.foldl_flip_collided {ps : List PixelPos} (hps : ps.Nodup) (d : Drawing) :
    (ps.foldl Drawing.flip d).collided = true ↔ d.collided = true ∨ ∃ q ∈ ps, d.fb.pixel q.1 q.2 = true := by
  induction ps generalizing d with
  | nil => simp
  | cons p ps ih =>
    obtain ⟨hp, hps⟩ := List.nodup_cons.1 hps
    have hlater : ∀ q ∈ ps, (d.flip p).fb.pixel q.1 q.2 = d.fb.pixel q.1 q.2 := fun q hq => by
      rw [Drawing.flip_pixel, if_neg (ne_of_mem_of_not_mem hq hp)]
    have hfirst : (d.flip p).collided = true ↔ d.collided = true ∨ d.fb.pixel p.1 p.2 = true := Bool.or_eq_true_iff
    rw [List.foldl_cons, ih hps, hfirst, or_assoc, List.exists_mem_cons_iff]
    exact or_congr_right (or_congr_right (exists_congr fun q => and_congr_right fun hq => by rw [hlater q hq]))

/-! ### The pixels a sprite targets (R160, R162) -/

/-- The targets of the set bits of one row byte, left to right. -/
def rowTargets (b : Byte) (x0 y : Nat) : List PixelPos :=
  ((List.range 8).filter fun col => b.getLsbD (7 - col)).map fun col => (Fin.ofNat 64 (x0 + col), Fin.ofNat 32 y)

/-- The targets of the set bits of a sprite's rows, top to bottom. -/
def State.spriteTargets (s : State) (x0 y0 n : Nat) : List PixelPos :=
  (List.range n).flatMap fun row => rowTargets (s.memRead (s.indexed row)) x0 (y0 + row)

theorem Drawing.row_eq_foldl_flip (d : Drawing) (b : Byte) (x0 y : Nat) :
    d.row b x0 y = (rowTargets b x0 y).foldl Drawing.flip d := by
  rw [rowTargets, List.foldl_map, List.foldl_filter]
  rfl

theorem State.drawSprite_eq_foldl_flip (s : State) (x0 y0 n : Nat) :
    s.drawSprite x0 y0 n = (s.spriteTargets x0 y0 n).foldl Drawing.flip ⟨s.fb, false⟩ := by
  rw [State.spriteTargets, List.foldl_flatMap]
  simp only [State.drawSprite, Drawing.row_eq_foldl_flip]

theorem mem_rowTargets {b : Byte} {x0 y : Nat} {p : PixelPos} :
    p ∈ rowTargets b x0 y ↔
      ∃ col, col < 8 ∧ b.getLsbD (7 - col) = true ∧ (x0 + col) % 64 = p.1.val ∧ y % 32 = p.2.val := by
  simp only [rowTargets, List.mem_map, List.mem_filter, List.mem_range, and_assoc, Prod.ext_iff, Fin.ext_iff,
    Fin.val_ofNat]

theorem State.mem_spriteTargets (s : State) (x y : RegIx) (n : Nibble) (px : Fin 64) (py : Fin 32) :
    (px, py) ∈ s.spriteTargets (s.originX x) (s.originY y) n.toNat ↔ s.spriteHits x y n px py := by
  simp only [State.spriteTargets, List.mem_flatMap, List.mem_range, mem_rowTargets]
  rfl

/-- Eight columns do not wrap onto each other. -/
theorem nodup_rowTargets (b : Byte) (x0 y : Nat) : (rowTargets b x0 y).Nodup := by
  refine List.Nodup.map_on (fun c hc c' hc' heq => ?_) (List.nodup_range.filter _)
  have hcol : (x0 + c) % 64 = (x0 + c') % 64 := congrArg (fun p : PixelPos => p.1.val) heq
  have hc : c < 8 := List.mem_range.1 (List.mem_of_mem_filter hc)
  have hc' : c' < 8 := List.mem_range.1 (List.mem_of_mem_filter hc')
  omega

/-- At most 15 rows do not wrap onto each other. -/
theorem State.nodup_spriteTargets (s : State) (x0 y0 : Nat) (n : Nibble) : (s.spriteTargets x0 y0 n.toNat).Nodup := by
  refine List.nodup_flatMap.2 ⟨fun _ _ => nodup_rowTargets _ _ _, ?_⟩
  refine List.nodup_range.imp_of_mem fun {r r'} hr hr' hne p hp hp' => hne ?_
  obtain ⟨-, -, -, -, hrow⟩ := mem_rowTargets.1 hp
  obtain ⟨-, -, -, -, hrow'⟩ := mem_rowTargets.1 hp'
  have hr : r < n.toNat := List.mem_range.1 hr
  have hr' : r' < n.toNat := List.mem_range.1 hr'
  have hn : n.toNat < 16 := n.isLt
  omega

/-! ### A completed draw -/

section
variable {s t : State} {x y : RegIx} {n : Nibble}

theorem flagByte_eq_one_iff {f : Bool} : flagByte f = 1 ↔ f = true := by
  cases f <;> decide

theorem flagByte_eq_zero_iff {f : Bool} : flagByte f = 0 ↔ ¬f = true := by
  cases f <;> decide

/-- What DXYN leaves when it completes from `s` (R162, R163 laws 1 and 2). -/
structure State.Drawn (s : State) (x y : RegIx) (n : Nibble) (t : State) : Prop where
  frame : t = { s with v := t.v, fb := t.fb, redraw := true }
  pixel_of_hit : ∀ px py, s.spriteHits x y n px py → t.fb.pixel px py = !s.fb.pixel px py
  pixel_of_not_hit : ∀ px py, ¬s.spriteHits x y n px py → t.fb.pixel px py = s.fb.pixel px py
  flag_eq_one : t.getV 0xF = 1 ↔ ∃ px py, s.spriteHits x y n px py ∧ s.fb.pixel px py = true
  flag_eq_zero : t.getV 0xF = 0 ↔ ¬∃ px py, s.spriteHits x y n px py ∧ s.fb.pixel px py = true
  keepsRegs : ∀ r, r ≠ 0xF → t.getV r = s.getV r

theorem State.drawSprite_pixel (px : Fin 64) (py : Fin 32) [Decidable (s.spriteHits x y n px py)] :
    (s.drawSprite (s.originX x) (s.originY y) n.toNat).fb.pixel px py =
      if s.spriteHits x y n px py then !s.fb.pixel px py else s.fb.pixel px py := by
  rw [State.drawSprite_eq_foldl_flip, Drawing.foldl_flip_pixel (s.nodup_spriteTargets _ _ n) _ (px, py)]
  simp only [State.mem_spriteTargets]

theorem State.drawSprite_collided :
    (s.drawSprite (s.originX x) (s.originY y) n.toNat).collided = true ↔
      ∃ px py, s.spriteHits x y n px py ∧ s.fb.pixel px py = true := by
  rw [State.drawSprite_eq_foldl_flip, Drawing.foldl_flip_collided (s.nodup_spriteTargets _ _ n)]
  simp only [Bool.false_eq_true, false_or, Prod.exists, State.mem_spriteTargets]

theorem State.drawn_showDrawing (s : State) (x y : RegIx) (n : Nibble) :
    s.Drawn x y n (s.showDrawing (s.drawSprite (s.originX x) (s.originY y) n.toNat)) := by
  classical
  have hflag : (s.showDrawing (s.drawSprite (s.originX x) (s.originY y) n.toNat)).getV 0xF =
    flagByte (s.drawSprite (s.originX x) (s.originY y) n.toNat).collided := State.getV_setFlag_vF _ _
  exact {
    frame := rfl
    pixel_of_hit := fun px py hhit => (State.drawSprite_pixel px py).trans (if_pos hhit)
    pixel_of_not_hit := fun px py hmiss => (State.drawSprite_pixel px py).trans (if_neg hmiss)
    flag_eq_one := by rw [hflag, flagByte_eq_one_iff, State.drawSprite_collided]
    flag_eq_zero := by rw [hflag, flagByte_eq_zero_iff, State.drawSprite_collided]
    keepsRegs := fun _ hr => State.getV_setFlag_of_ne _ hr _ }

/-- DXYN completes where its rows lie in memory, or there are none (R54, D26). -/
theorem exec_draw (h : n = 0 ∨ s.i.toNat + n.toNat - 1 < s.cfg.memSize) :
    ∃ t, exec (.opDXYN x y n) s = .next t ∧ s.Drawn x y n t :=
  ⟨_, s.checkRange_pass (h.imp_left (congrArg BitVec.toNat)) _, s.drawn_showDrawing x y n⟩

theorem exec_draw_next (h : exec (.opDXYN x y n) s = .next t) :
    (n = 0 ∨ s.i.toNat + n.toNat - 1 < s.cfg.memSize) ∧ s.Drawn x y n t := by
  obtain ⟨hrange, rfl⟩ := s.checkRange_next h
  exact ⟨hrange.imp_left BitVec.eq_of_toNat_eq, s.drawn_showDrawing x y n⟩

/-! ### Two draws of the same sprite (R163 laws 3 and 4) -/

/-- A draw keeps memory and I, so where it keeps its coordinates too the same sprite targets the same pixels. -/
theorem State.Drawn.spriteHits_iff (h : s.Drawn x y n t) (hx : t.getV x = s.getV x) (hy : t.getV y = s.getV y)
    (px : Fin 64) (py : Fin 32) : t.spriteHits x y n px py ↔ s.spriteHits x y n px py := by
  have hi : t.i = s.i := by rw [h.frame]
  have hread (a : Nat) : t.memRead a = s.memRead a := by rw [h.frame]; rfl
  simp only [State.spriteHits, hi, hread, hx, hy]

/-- The pixels hit and on after a draw are those it turned on. -/
theorem State.Drawn.hit_and_on_iff (h : s.Drawn x y n t) (px : Fin 64) (py : Fin 32) :
    s.spriteHits x y n px py ∧ t.fb.pixel px py = true ↔ s.fb.pixel px py = false ∧ t.fb.pixel px py = true := by
  by_cases hhit : s.spriteHits x y n px py
  · simp [hhit, h.pixel_of_hit px py hhit]
  · simp [hhit, h.pixel_of_not_hit px py hhit]

/-- A sprite targets some pixel exactly when one of its rows is not blank. -/
theorem State.exists_spriteHits_iff :
    (∃ px py, s.spriteHits x y n px py) ↔ ∃ row, row < n.toNat ∧ s.memRead (s.i.toNat + row) ≠ 0 := by
  constructor
  · rintro ⟨px, py, row, hrow, col, -, hbit, -⟩
    exact ⟨row, hrow, fun hzero => by simp [hzero] at hbit⟩
  · rintro ⟨row, hrow, hne⟩
    obtain ⟨k, hk, hbit⟩ : ∃ k, k < 8 ∧ (s.memRead (s.i.toNat + row)).getLsbD k = true := by
      by_contra! hnone
      exact hne (BitVec.eq_of_getLsbD_eq fun k hk => by simpa using hnone k hk)
    have hcol : 7 - (7 - k) = k := by omega
    exact ⟨⟨_, Nat.mod_lt _ (by decide)⟩, ⟨_, Nat.mod_lt _ (by decide)⟩, row, hrow, 7 - k, by omega,
      hcol.symm ▸ hbit, rfl, rfl⟩

end

/-- Settles O38: the draw flips its targets one by one, all of them distinct, and notes the collision meanwhile. -/
theorem drawFlipsTargetedPixels : Obligations.DrawFlipsTargetedPixels := by
  intro s x y n hrange
  obtain ⟨t, hexec, hdrawn⟩ := exec_draw (x := x) (y := y) hrange
  refine ⟨t, hexec, hdrawn.frame, hdrawn.pixel_of_hit, hdrawn.pixel_of_not_hit, hdrawn.flag_eq_one.2, fun hoff => ?_,
    hdrawn.keepsRegs⟩
  refine hdrawn.flag_eq_zero.2 fun ⟨px, py, hhit, hon⟩ => ?_
  exact Bool.false_ne_true ((hoff px py hhit).symm.trans hon)

/-- Settles O39: the second draw has the targets of the first, so every target is flipped twice, and the targets it
finds on are the pixels the first draw turned on. -/
theorem secondDrawRestoresFramebuffer : Obligations.SecondDrawRestoresFramebuffer := by
  intro s t x y n hfirst hx hy
  obtain ⟨hrange, ht⟩ := exec_draw_next hfirst
  have hsame := ht.spriteHits_iff hx hy
  obtain ⟨u, hsecond, hu⟩ : ∃ u, exec (.opDXYN x y n) t = .next u ∧ t.Drawn x y n u :=
    exec_draw (by rw [ht.frame]; exact hrange)
  have hone := hu.flag_eq_one
  have hzero := hu.flag_eq_zero
  simp only [hsame, ht.hit_and_on_iff] at hone hzero
  refine ⟨u, hsecond, FrameBuffer.ext_pixel fun px py => ?_, hone, hzero, fun hclean => ?_⟩
  · by_cases hhit : s.spriteHits x y n px py
    · rw [hu.pixel_of_hit px py ((hsame px py).2 hhit), ht.pixel_of_hit px py hhit, Bool.not_not]
    · rw [hu.pixel_of_not_hit px py (mt (hsame px py).1 hhit), ht.pixel_of_not_hit px py hhit]
  · have hlit (px : Fin 64) (py : Fin 32) (hhit : s.spriteHits x y n px py) : t.fb.pixel px py = true := by
      have hoff : ¬s.fb.pixel px py = true := fun hon => ht.flag_eq_zero.1 hclean ⟨px, py, hhit, hon⟩
      rw [ht.pixel_of_hit px py hhit, Bool.eq_false_iff.2 hoff, Bool.not_false]
    rw [hone, ← State.exists_spriteHits_iff (x := x) (y := y)]
    simp only [← ht.hit_and_on_iff]
    exact exists₂_congr fun px py => and_iff_left_of_imp (hlit px py)

/-- Settles O40: no pixel of a cleared screen is on, so none that the draw targets is. -/
theorem firstDrawOnClearedScreenDoesNotCollide : Obligations.FirstDrawOnClearedScreenDoesNotCollide := by
  intro s t u x y n hclear hdraw
  obtain ⟨-, hu⟩ := exec_draw_next hdraw
  have hfb : t.fb = FrameBuffer.clear := by cases hclear; rfl
  refine hu.flag_eq_zero.2 fun ⟨px, py, _, hon⟩ => ?_
  rw [hfb, FrameBuffer.pixel_clear] at hon
  exact Bool.false_ne_true hon

/-- Settles O37: the framebuffer 00E0 leaves is the clear one. -/
theorem clearScreenTurnsPixelsOff : Obligations.ClearScreenTurnsPixelsOff :=
  fun _ => ⟨_, rfl, FrameBuffer.pixel_clear, rfl⟩

end Sys2Proof.Machine
end

section
/-! SUPPORT. FX0A and the timers (spec/44_input_timer.md R182 to R185): the scan's answer and what each makes of it,
a step that comes back to the state it started from, and the sound signal as a comparison of ST with 0 (R32). -/

namespace Sys2Proof.Machine

section
variable {s t : State} {x : RegIx}

/-! ### Waiting for a key (R182) -/

/-- The scan goes through the keys in rising order, so a held key below which none is held is its answer. -/
theorem State.lowestKey_eq_some_of_least {k : BitVec 4} (hheld : s.keyHeld k = true)
    (hleast : ∀ j : BitVec 4, j.toNat < k.toNat → s.keyHeld j = false) : s.lowestKey = some k := by
  have hofNat : BitVec.ofNat 4 k.toNat = k := by rw [BitVec.ofNat_toNat, BitVec.setWidth_eq]
  have hscan : (List.range 16).find? (s.keyHeld ∘ BitVec.ofNat 4) = some k.toNat := by
    refine List.find?_range_eq_some.2 ⟨(congrArg s.keyHeld hofNat).trans hheld, List.mem_range.2 k.isLt, fun j hj => ?_⟩
    have hbelow : (BitVec.ofNat 4 j).toNat < k.toNat := by
      rwa [BitVec.toNat_ofNat, Nat.mod_eq_of_lt (hj.trans k.isLt)]
    simp [hleast _ hbelow]
  calc s.lowestKey
    _ = ((List.range 16).find? (s.keyHeld ∘ BitVec.ofNat 4)).map (BitVec.ofNat 4) := List.find?_map
    _ = some k := by rw [hscan, Option.map_some, hofNat]

theorem exec_keyWait_found {k : BitVec 4} (h : s.lowestKey = some k) :
    exec (.opFX0A x) s = .next (s.setV x (k.zeroExtend 8)) := by
  simp only [exec, execFX0A, h]

theorem exec_keyWait_none (h : ∀ k, s.keyHeld k = false) : exec (.opFX0A x) s = .next (s.setPc (s.pc - 2)) := by
  simp only [exec, execFX0A, s.lowestKey_none.2 h]

/-- Going back by 2 undoes the advance but for the outputs it cleared (R73). -/
theorem State.advance_setPc_back : s.advance.setPc (s.advance.pc - 2) = s.clearOutputs := by
  rw [State.advance_pc, BitVec.add_sub_cancel]
  rfl

/-- With no key held, a step on an FX0A only clears the outputs. -/
theorem step_keyWait_none {w : Word} (hfetch : s.fetch = .ok w) (hdecode : decodeWord w = some (.opFX0A x))
    (hnone : ∀ k, s.keyHeld k = false) : step s = .next s.clearOutputs := by
  rw [step_of_decode hfetch hdecode, exec_keyWait_none (s := s.advance) hnone, State.advance_setPc_back]

/-! ### Runs of steps -/

theorem run_succ_of_step (h : step s = .next t) (k : Nat) : core.run (k + 1) s = core.run k t := by
  have hstep : core.step s = .next t := h
  simp only [Host.Core.run, hstep]

/-- A state that a step maps to itself is where every run from it ends. -/
theorem run_of_step_self (h : step s = .next s) (k : Nat) : core.run k s = .next s := by
  induction k with
  | zero => rfl
  | succ k ih => rw [run_succ_of_step h, ih]

/-! ### The sound signal (R32) -/

theorem State.soundSignal_eq_decide_ne_zero (s : State) : s.soundSignal = decide (s.st ≠ 0) :=
  decide_eq_decide.2 (Nat.pos_iff_ne_zero.trans (BitVec.toNat_ne (x := s.st) (y := 0)).symm)

end

/-- Settles O43: the scan answers the least held key, whose index is VX's new value, or none. -/
theorem keyWaitTakesLowestKey : Obligations.KeyWaitTakesLowestKey := by
  intro s x
  refine ⟨fun k hheld hleast => ?_, fun hnone => ?_⟩
  · obtain ⟨t, hexec, hframe, hkey, hkept⟩ :=
      exists_next_of_setV (exec_keyWait_found (x := x) (State.lowestKey_eq_some_of_least hheld hleast))
    exact ⟨t, hexec, hframe, hkey ▸ BitVec.toNat_setWidth_of_le (by decide), hkept⟩
  · refine ⟨_, exec_keyWait_none hnone, rfl, ?_⟩
    have hpc : s.pc.toNat < 65536 := s.pc.isLt
    rw [State.setPc_pc]
    bv_omega

/-- Settles O44: the first step clears the outputs, and every later one finds the same FX0A and changes nothing. -/
theorem keyWaitSpinsInPlace : Obligations.KeyWaitSpinsInPlace := by
  intro s w x k hfetch hdecode hnone
  have hfirst : step s = .next s.clearOutputs := step_keyWait_none hfetch hdecode hnone
  have hlater : step s.clearOutputs = .next s.clearOutputs :=
    step_keyWait_none (s := s.clearOutputs) hfetch hdecode hnone
  exact (run_succ_of_step hfirst k).trans (run_of_step_self hlater k)

/-- Settles O45: decoding on NN within class F; each instruction copies one byte, and the sound signal reads the ST that
FX18 set. -/
theorem timersAreReadAndSet : Obligations.TimersAreReadAndSet :=
  ⟨fun _ hF hNN => by simp [decodeWord_classF hF, decodeClassF, hNN],
    fun _ hF hNN => by simp [decodeWord_classF hF, decodeClassF, hNN],
    fun _ hF hNN => by simp [decodeWord_classF hF, decodeClassF, hNN],
    fun s x => ⟨exists_next_of_setV rfl, ⟨_, rfl, rfl⟩, _, rfl, rfl,
      congrArg (fun on => (Response.sound on, s.setSt (s.getV x))) (State.soundSignal_eq_decide_ne_zero _)⟩⟩

end Sys2Proof.Machine
end

section
/-! SUPPORT. The errors of a step (spec/60_exceptions.md R200 to R209): the inversion of a step that ends in one, the
address it records, and the state after it. -/

namespace Sys2Proof.Machine

section
variable {s : State} {f : Fault}

/-! ### Errors of an executing instruction (R200, R208) -/

theorem exec00EE_fault (h : exec00EE s = .fault f) : s.stack = [] ∧ f = .stackUnderflow (s.pc - 2) :=
  s.pop_fault h

theorem exec2NNN_fault {nnn : Addr} (h : exec2NNN nnn s = .fault f) :
    16 ≤ s.stack.length ∧ f = .stackOverflow (s.pc - 2) :=
  s.push_fault h

theorem execFX1E_fault {x : RegIx} (h : execFX1E x s = .fault f) :
    s.cfg.memSize ≤ s.i.toNat + (s.getV x).toNat ∧
      f = .memoryOutOfRange (s.pc - 2) (s.i.toNat + (s.getV x).toNat) := by
  simp only [execFX1E] at h
  split at h
  · cases h
  · cases h
    exact ⟨Nat.not_lt.1 ‹_›, rfl⟩

theorem execFX0A_ne_fault (x : RegIx) : execFX0A x s ≠ .fault f := by
  unfold execFX0A
  split <;> nofun

end

/-- Settles O12: an error comes out of a pop, a push, FX1E's test of its sum or a range check from I on; every other
instruction completes. -/
theorem instructionErrorsAreThese : Obligations.InstructionErrorsAreThese := by
  intro i s f h
  cases i with
  | op00EE => exact .inl ⟨rfl, exec00EE_fault h⟩
  | op2NNN nnn => exact .inr (.inl ⟨nnn, rfl, exec2NNN_fault h⟩)
  | opFX1E x => exact .inr (.inr (.inl ⟨x, rfl, execFX1E_fault h⟩))
  | opDXYN x y n =>
    obtain ⟨hrows, hrange⟩ := s.checkRange_fault h
    exact .inr (.inr (.inr (.inl ⟨x, y, n, rfl, Nat.pos_of_ne_zero hrows, hrange⟩)))
  | opFX33 x =>
    obtain ⟨-, hrange⟩ := s.checkRange_fault h
    exact .inr (.inr (.inr (.inr (.inl ⟨x, rfl, hrange⟩))))
  | opFX55 x =>
    obtain ⟨-, hrange⟩ := s.checkRange_fault h
    exact .inr (.inr (.inr (.inr (.inr ⟨x, .inl rfl, hrange⟩))))
  | opFX65 x =>
    obtain ⟨-, hrange⟩ := s.checkRange_fault h
    exact .inr (.inr (.inr (.inr (.inr ⟨x, .inr rfl, hrange⟩))))
  | opFX0A x => exact absurd h (execFX0A_ne_fault x)
  | op00E0 | op1NNN | op3XNN | op4XNN | op5XY0 | op6XNN | op7XNN | op8XY0 | op8XY1 | op8XY2 | op8XY3 | op8XY4
  | op8XY5 | op8XY6 | op8XY7 | op8XYE | op9XY0 | opANNN | opBNNN | opCXNN | opEX9E | opEXA1 | opFX07 | opFX15
  | opFX18 | opFX29 => cases h

section
variable {s : State} {f : Fault}

/-! ### The address an error records (R73, R200) -/

/-- An executing instruction's error records the address two below PC. -/
theorem exec_fault_ia {i : Instr} (h : exec i s = .fault f) : f.ia = some (s.pc - 2) := by
  obtain ⟨-, -, rfl⟩ | ⟨-, -, -, rfl⟩ | ⟨-, -, -, rfl⟩ | ⟨-, -, -, -, -, -, rfl⟩ | ⟨-, -, -, rfl⟩ | ⟨-, -, -, rfl⟩ :=
    instructionErrorsAreThese i s f h <;> rfl

theorem State.fetch_error_ia (h : s.fetch = .error f) : f.ia = some s.pc := by
  obtain ⟨-, -, hfetch⟩ | ⟨-, -, hfetch⟩ | ⟨-, -, hfetch⟩ := s.fetch_cases <;> cases h.symm.trans hfetch <;> rfl

/-- A step that ends in an error failed to fetch, met an unrecognised word under `fatal`, or ran an instruction that
raised the error. -/
theorem step_fault (h : step s = .fault f) :
    s.fetch = .error f ∨ ∃ w, s.fetch = .ok w ∧
      ((decodeWord w = none ∧ s.cfg.unknownOpcodePolicy = .fatal ∧ f = .unknownOpcode s.pc w) ∨
        ∃ i, decodeWord w = some i ∧ exec i s.advance = .fault f) := by
  cases hfetch : s.fetch with
  | error g =>
    cases (step_of_fetch_error hfetch).symm.trans h
    exact .inl rfl
  | ok w =>
    refine .inr ⟨w, rfl, ?_⟩
    cases hdecode : decodeWord w with
    | none =>
      rw [step_of_unrecognised hfetch hdecode] at h
      cases hpolicy : s.cfg.unknownOpcodePolicy with
      | nopReport =>
        cases (State.unrecognisedWord_nopReport (s := s.advance) hpolicy w).symm.trans h
      | fatal =>
        cases (State.unrecognisedWord_fatal (s := s.advance) hpolicy w).symm.trans h
        exact .inl ⟨rfl, rfl, by rw [State.instrAddr_advance]⟩
    | some i => exact .inr ⟨i, rfl, (step_of_decode hfetch hdecode).symm.trans h⟩

/-- A step's error records the PC the step began at. -/
theorem step_fault_ia (h : step s = .fault f) : f.ia = some s.pc := by
  obtain hfetch | ⟨w, -, ⟨-, -, rfl⟩ | ⟨i, -, hexec⟩⟩ := step_fault h
  · exact State.fetch_error_ia hfetch
  · rfl
  · rw [exec_fault_ia hexec, ← State.instrAddr, State.instrAddr_advance]

/-! ### The state after an error (R203) -/

theorem State.exists_fetch_error_of_not_fetchable (h : ¬s.fetchable) : ∃ g, s.fetch = .error g := by
  obtain ⟨-, -, hfetch⟩ | ⟨-, -, hfetch⟩ | ⟨halign, hfit, -⟩ := s.fetch_cases
  · exact ⟨_, hfetch⟩
  · exact ⟨_, hfetch⟩
  · refine absurd ⟨?_, hfit⟩ h
    cases hpolicy : s.cfg.misalignedFetch with
    | execute => exact .inl rfl
    | fault => exact .inr (Bool.eq_false_iff.2 fun hodd => halign ⟨hpolicy, hodd⟩)

/-- A failed fetch leaves PC where it was (R203). -/
theorem State.errorState_of_fetch_error (h : s.fetch = .error f) : s.errorState = s.clearOutputs := by
  rw [State.errorState, h]

/-- The state after an error is the one before the step, outputs cleared, PC advanced if the fetch succeeded. -/
theorem State.errorState_eq (s : State) :
    s.errorState =
      { s with pc := if s.fetchable then s.pc + 2 else s.pc, redraw := false, unknownWord := none } := by
  by_cases h : s.fetchable
  · rw [State.errorState_of_fetch_ok (State.fetch_of_fetchable h), if_pos h]
    rfl
  · obtain ⟨g, hfetch⟩ := State.exists_fetch_error_of_not_fetchable h
    rw [State.errorState_of_fetch_error hfetch, if_neg h]
    rfl

end

/-- Settles O10: the fetch, an unrecognised word and an instruction each record the address of the word, and the Step
transaction leaves the error state. -/
theorem errorsArePreciseAndLeaveNoPartialEffect : Obligations.ErrorsArePreciseAndLeaveNoPartialEffect := by
  intro s f h
  have hafter : transact .step s = (.stepped (.error f) false, s.errorState) := s.stepTransaction_fault h
  exact ⟨step_fault_ia h, _, rfl, by rw [hafter, State.errorState_eq]⟩

end Sys2Proof.Machine
end

section
/-! SUPPORT. The host's transactions in any order (spec/60_exceptions.md R210 to R222): what Step and LoadProgram can
leave, and one induction over the list for every property that each transaction keeps. -/

namespace Sys2Proof.Machine

section
variable {s : State}

/-! ### What a transaction leaves (R220) -/

/-- A Step transaction leaves what a completed step left, or the error state: no step is refused (R212). -/
theorem State.stepTransaction_leaves (s : State) :
    step s = .next s.stepTransaction.2 ∨ s.stepTransaction.2 = s.errorState := by
  cases hstep : step s with
  | next t => exact .inl (by rw [s.stepTransaction_next hstep])
  | fault f => exact .inr (by rw [s.stepTransaction_fault hstep])
  | refused r => exact absurd hstep (noStepIsRefused s r)

/-- A LoadProgram transaction writes a program that fits to 0x200 on, or leaves everything as it was (R242, R243). -/
theorem transact_loadProgram_leaves (s : State) (bytes : List Byte) :
    (bytes.length ≤ s.cfg.memSize - 0x200 ∧ (transact (.loadProgram bytes) s).2 = s.memWrites 0x200 bytes) ∨
      (transact (.loadProgram bytes) s).2 = s := by
  rcases le_or_gt bytes.length (s.cfg.memSize - 0x200) with hfits | hlong
  · exact .inl ⟨hfits, by simp only [transact, s.loadProgram_fits hfits]⟩
  · exact .inr (by simp only [transact, s.loadProgram_overflow hlong])

/-! ### Any list of transactions (R221, R222) -/

/-- A property that each transaction of the list keeps holds after the whole list. -/
theorem runAll_keeps {P : State → Prop} {xs : List Transaction} (hkeep : ∀ x ∈ xs, ∀ s, P s → P (transact x s).2)
    (hs : P s) : P (runAll xs s) := by
  induction xs generalizing s with
  | nil => exact hs
  | cons x xs ih =>
    rw [List.forall_mem_cons] at hkeep
    obtain ⟨hfirst, hrest⟩ := hkeep
    exact ih hrest (hfirst s hs)

/-! ### The invariant (R25, R30, R50) -/

theorem State.Inv.errorState (h : s.Inv) : s.errorState.Inv := by
  rcases s.errorState_cases with herror | herror <;> rw [herror]
  · exact h.congr rfl rfl rfl
  · exact h.advance

theorem State.Inv.stepTransaction (h : s.Inv) : s.stepTransaction.2.Inv := by
  rcases s.stepTransaction_leaves with hnext | herror
  · exact stepKeepsInvariant s _ h hnext
  · exact herror ▸ h.errorState

theorem State.Inv.progStart_le_memSize (h : s.Inv) : 0x200 ≤ s.cfg.memSize := by
  obtain ⟨hcfg, -⟩ := h
  obtain ⟨hmin, -⟩ := Config.wellFormed_iff.1 hcfg
  exact hmin

/-- A program that fits ends within memory, which reaches 0x200 at least (R6). -/
theorem State.Inv.loadProgram (h : s.Inv) (bytes : List Byte) : (transact (.loadProgram bytes) s).2.Inv := by
  rcases transact_loadProgram_leaves s bytes with ⟨hfits, hwritten⟩ | hsame
  · have hmin : 0x200 ≤ s.cfg.memSize := h.progStart_le_memSize
    exact hwritten ▸ h.memWrites (by omega)
  · exact hsame.symm ▸ h

theorem State.Inv.transact (h : s.Inv) {x : Transaction} (hx : x.admissible = true) : (transact x s).2.Inv := by
  cases x with
  | init c => exact State.init_inv hx s.draws
  | loadProgram bytes => exact h.loadProgram bytes
  | step => exact h.stepTransaction
  | tickDelay | tickSound | setKeys => exact h.congr rfl rfl rfl
  | readFramebuffer | readSound => exact h

/-! ### Keys (R29, R218) -/

theorem step_key_eq {t : State} (h : step s = .next t) : t.key = s.key := by
  obtain ⟨w, -, ⟨-, -, rfl⟩ | ⟨i, -, hexec⟩⟩ := step_next h
  · rfl
  · obtain ⟨hkey, -⟩ := (exec_writes hexec).keeps_key_cfg_unknownWord
    exact hkey

theorem State.errorState_key (s : State) : s.errorState.key = s.key := by
  rw [State.errorState_eq]

/-! ### Ticks (R213, R214) -/

theorem toNat_iterate_countDown (n : Nat) (b : Byte) : (countDown^[n] b).toNat = b.toNat - n := by
  induction n with
  | zero => rfl
  | succ n ih => rw [Function.iterate_succ_apply', toNat_countDown, ih, Nat.sub_sub]

/-- Where a transaction counts down the byte that a family of states differs in, n of them count it down n times. -/
theorem runAll_replicate_of_countDown {x : Transaction} {family : Byte → State}
    (htick : ∀ b, (transact x (family b)).2 = family (countDown b)) (n : Nat) (b : Byte) :
    runAll (List.replicate n x) (family b) = family (countDown^[n] b) := by
  induction n generalizing b with
  | zero => rfl
  | succ n ih => rw [List.replicate_succ, runAll, htick, ih, Function.iterate_succ_apply]

theorem runAll_replicate_tickDelay (n : Nat) (s : State) :
    runAll (List.replicate n .tickDelay) s = s.setDt (countDown^[n] s.dt) :=
  runAll_replicate_of_countDown (family := s.setDt) (fun _ => rfl) n s.dt

theorem runAll_replicate_tickSound (n : Nat) (s : State) :
    runAll (List.replicate n .tickSound) s = s.setSt (countDown^[n] s.st) :=
  runAll_replicate_of_countDown (family := s.setSt) (fun _ => rfl) n s.st

/-! ### A fetch that fails (R210) -/

/-- No transaction but Init moves PC or changes the configuration once the fetch fails, so it goes on failing. -/
theorem fetch_error_of_transact {f : Fault} {x : Transaction} (hfetch : s.fetch = .error f) (hx : ∀ c, x ≠ .init c) :
    (transact x s).2.fetch = .error f := by
  cases x with
  | init c => exact absurd rfl (hx c)
  | loadProgram bytes =>
    rcases transact_loadProgram_leaves s bytes with ⟨-, hwritten⟩ | hsame
    · rw [hwritten]
      exact s.fetch_error_congr (s.memWrites_pc _ _) (s.memWrites_cfg _ _) hfetch
    · rwa [hsame]
  | step =>
    have hafter : (transact .step s).2 = s.clearOutputs := by
      rw [show transact .step s = s.stepTransaction from rfl, s.stepTransaction_fault (step_of_fetch_error hfetch),
        State.errorState_of_fetch_error hfetch]
    rw [hafter]
    exact s.fetch_error_congr rfl rfl hfetch
  | tickDelay | tickSound | setKeys => exact s.fetch_error_congr rfl rfl hfetch
  | readFramebuffer | readSound => exact hfetch

end

/-- Settles O53: each admissible transaction keeps the invariant, so a list of them does. -/
theorem everyRunKeepsInvariant : Obligations.EveryRunKeepsInvariant :=
  fun _ _ hadmissible hs => runAll_keeps (fun x hx _ h => h.transact (hadmissible x hx)) hs

/-- Settles O55: n ticks set the timer alone, to its value counted down n times. -/
theorem ticksRunTimersDownToZero : Obligations.TicksRunTimersDownToZero :=
  fun s n => ⟨_, _, runAll_replicate_tickDelay n s, rfl, toNat_iterate_countDown n s.dt,
    runAll_replicate_tickSound n s, rfl, toNat_iterate_countDown n s.st⟩

/-- Settles O56: a completed step keeps the keys by the frame of its instruction, and an error leaves all but PC and the
outputs. -/
theorem setKeysReplacesAndStepKeepsKeys : Obligations.SetKeysReplacesAndStepKeepsKeys := by
  intro s k
  refine ⟨rfl, ?_⟩
  rcases s.stepTransaction_leaves with hnext | herror
  · exact step_key_eq hnext
  · exact (congrArg State.key herror).trans s.errorState_key

/-- Settles O58: the failing fetch is kept by each transaction but Init, and the step answers its error. -/
theorem fetchErrorLastsUntilInit : Obligations.FetchErrorLastsUntilInit := by
  intro s f xs hfetch hnoInit
  have hkeep : ∀ x ∈ xs, ∀ t : State, t.fetch = .error f → (transact x t).2.fetch = .error f :=
    fun x hx _ ht => fetch_error_of_transact ht fun c hc => hnoInit c (hc ▸ hx)
  exact step_of_fetch_error (runAll_keeps hkeep hfetch)

end Sys2Proof.Machine
end

section
/-! SUPPORT. What LoadProgram answers and leaves (spec/70_reset_and_hazards.md R242, R243). -/

namespace Sys2Proof.Machine

section
variable {s : State} {bytes : List Byte}

/-! ### A block of bytes written from any address on (R57) -/

theorem State.memRead_memWrites_add (s : State) (a : Nat) {k : Nat} (hk : k < bytes.length) :
    (s.memWrites a bytes).memRead (a + k) = bytes[k] := by
  have hoffset : a + k - a = k := Nat.add_sub_cancel_left a k
  rw [State.memRead_memWrites, dif_pos ⟨Nat.le_add_right a k, hoffset.symm ▸ hk⟩]
  simp only [hoffset]

theorem State.memRead_memWrites_outside {a b : Nat} (h : b < a ∨ a + bytes.length ≤ b) :
    (s.memWrites a bytes).memRead b = s.memRead b := by
  rw [State.memRead_memWrites, dif_neg (by omega)]

/-! ### The two answers of LoadProgram -/

theorem transact_loadProgram_fits (h : bytes.length ≤ s.cfg.memSize - 0x200) :
    transact (.loadProgram bytes) s = (.done, s.memWrites 0x200 bytes) := by
  simp only [transact, s.loadProgram_fits h]

theorem transact_loadProgram_overflow (h : s.cfg.memSize - 0x200 < bytes.length) :
    transact (.loadProgram bytes) s = (.loadError (.loadOverflow bytes.length), s) := by
  simp only [transact, s.loadProgram_overflow h]

end

/-- Settles O57: a program that fits is one block of bytes written from 0x200 on, which changes memory alone and there
no byte outside the block; a longer one is answered before anything is written. -/
theorem loadProgramCopiesOrFails : Obligations.LoadProgramCopiesOrFails := by
  intro s bytes
  refine ⟨fun hfits => ?_, transact_loadProgram_overflow⟩
  exact ⟨_, transact_loadProgram_fits hfits, s.memWrites_eq _ _, fun _ hj => s.memRead_memWrites_add _ hj,
    fun _ => State.memRead_memWrites_outside⟩

end Sys2Proof.Machine
end
